-- ==== Sys2Proof/Word.lean ====
section
/-! DEFINITION. The word types of GC-ANIM (widths of 00_scope R8). -/

namespace Sys2Proof

/-- A host register or command word, 32 bits (R30, R91); also times and speeds (R8). -/
abbrev Word := BitVec 32

/-- A colour word, 24 bits: red in [23:16], green in [15:8], blue in [7:0] (R31). -/
abbrev Color := BitVec 24

/-- One channel of a colour word, 8 bits (R31). -/
abbrev Channel := BitVec 8

/-- A blend ratio numerator `n`, which stands for `n/127` (R93, R126). -/
abbrev Ratio := BitVec 7

/-- A byte offset in the 256-byte register window (R70, R90). -/
abbrev Offset := BitVec 8

/-- A byte on the LED bus (R234). -/
abbrev Byte := BitVec 8

end Sys2Proof
end

