-- ==== Sys2Proof/Config.lean ====
section
/-! DEFINITION. What an implementation of GC-ANIM fixes (R8) and the free values the spec leaves open. -/

namespace Sys2Proof

/-- The build parameters of one device (00_scope R8), each in its legal range. A device with P = 0 cannot be
built (R285), so no value of this type has it. `base` is the bus address of the register window. -/
structure Params where
  pixels : Nat
  nblobs : Nat
  lavaOnMax : Nat
  lavaOffMax : Nat
  cylonEdgeN : Ratio
  base : Nat
  pixels_pos : 1 ≤ pixels
  pixels_le : pixels ≤ 65535
  nblobs_pos : 1 ≤ nblobs
  nblobs_le : nblobs ≤ 255
  lavaOnMax_pos : 1 ≤ lavaOnMax
  lavaOnMax_lt : lavaOnMax < 2 ^ 32
  lavaOffMax_pos : 1 ≤ lavaOffMax
  lavaOffMax_lt : lavaOffMax < 2 ^ 32
  base_aligned : base % 256 = 0
deriving DecidableEq, Repr

/-! The open parameters of the device that leaves reset (log 1): no body, so nothing can be proved of their values. -/

/-- Open: chooses PIXELS (R8). -/
opaque Config.freePixels : Nat
/-- Open: chooses LAVA_NBLOBS (R8). -/
opaque Config.freeNblobs : Nat
/-- Open: chooses LAVA_ON_MAX (R8). -/
opaque Config.freeLavaOnMax : Nat
/-- Open: chooses LAVA_OFF_MAX (R8). -/
opaque Config.freeLavaOffMax : Nat
/-- Open: CYLON_EDGE_N (R8, R156). -/
opaque Config.freeCylonEdgeN : Ratio
/-- Open: chooses BASE (R8, R78). -/
opaque Config.freeBasePage : Nat

/-- The parameters of the device that `State.reset` describes: each any value of its legal range (R8; log 1). -/
def Config.device : Params where
  pixels := 1 + Config.freePixels % 65535
  nblobs := 1 + Config.freeNblobs % 255
  lavaOnMax := 1 + Config.freeLavaOnMax % (2 ^ 32 - 1)
  lavaOffMax := 1 + Config.freeLavaOffMax % (2 ^ 32 - 1)
  cylonEdgeN := Config.freeCylonEdgeN
  base := 256 * Config.freeBasePage
  pixels_pos := by omega
  pixels_le := by omega
  nblobs_pos := by omega
  nblobs_le := by omega
  lavaOnMax_pos := by omega
  lavaOnMax_lt := by omega
  lavaOffMax_pos := by omega
  lavaOffMax_lt := by omega
  base_aligned := by omega

/-- Free value: what the Random source answers to its n-th request when the state queues no answer (R125; log 2).
`Machine.ask` brings it into the request's range. -/
opaque Config.freeAnswer : Nat → Nat

/-- Free value: the data word on the bus at the n-th read that ends in BusError (R254, I9; log 5). -/
opaque Config.freeErrorData : Nat → Word

end Sys2Proof
end

