-- ==== Sys2Proof/Syntax.lean ====
section
/-! DEFINITION. The instructions of GC-ANIM: the 16 rows of spec/opcode_table.json, and the names of its host registers. -/

namespace Sys2Proof

/-- The 18 host registers (10_state R30). -/
inductive HostReg where
  | cmd | status | cfgKind | cfgColorA | cfgColorB | cfgSpeed
  | actKind | actColorA | actColorB | actSpeed | now | nextDue
  | lastDelay | opa | opb | res | pixels | nblobs
deriving DecidableEq, Repr

/-- The access rule of a host register (10_state R30, the access legend). -/
inductive Access where
  | readWrite | readOnly | writeOnly
deriving DecidableEq, Repr

/-- The six pattern kinds (10_state R32). -/
inductive Kind where
  | solid | pulse | cylon | alternate | flicker | lava
deriving DecidableEq, Repr

/-- The eight commands a legal CMD word stands for (30_encoding R92, R96). -/
inductive Command where
  | nop | setpat | tick | mix (n : Ratio) | dim (n : Ratio) | morph | expand | parse
deriving DecidableEq, Repr

/-- The instructions: eight commands (format CMD, R91), two Host transactions (format BUS, R90) and six advance
operations (format KIND, R98). -/
inductive Instr where
  | nop
  | setpat
  | tick
  | mix (n : Ratio)
  | dim (n : Ratio)
  | morph
  | expand
  | parse
  | rd (off : Offset)
  | wr (off : Offset) (data : Word)
  | advSolid
  | advPulse
  | advCylon
  | advAlternate
  | advFlicker
  | advLava
deriving DecidableEq, Repr

/-- A command as an instruction. -/
def Command.toInstr : Command → Instr
  | .nop => .nop
  | .setpat => .setpat
  | .tick => .tick
  | .mix n => .mix n
  | .dim n => .dim n
  | .morph => .morph
  | .expand => .expand
  | .parse => .parse

/-- The advance operation of a kind (R98). -/
def Kind.toInstr : Kind → Instr
  | .solid => .advSolid
  | .pulse => .advPulse
  | .cylon => .advCylon
  | .alternate => .advAlternate
  | .flicker => .advFlicker
  | .lava => .advLava

end Sys2Proof
end

