-- ==== Sys2Proof/Machine/State.lean ====
section
/-! DEFINITION. The state of GC-ANIM (10_state, 70_reset R281 and R282), and the reasons a step can stop. -/

namespace Sys2Proof.Machine

/-! ## Pattern private state (10_state R46 to R54) -/

/-- The PULSE variant (R48): `L`, `Rc`, `UP` (true: counting up) and the step counter `c`. -/
structure PulseState where
  left : Color
  right : Color
  up : Bool
  count : BitVec 7
deriving DecidableEq, Repr

/-- The CYLON variant (R49): `DIR` (true: toward lower indices), `pos`, `E` and `Bg`. -/
structure CylonState where
  down : Bool
  pos : BitVec 16
  eye : Color
  background : Color
deriving DecidableEq, Repr

/-- The FLICKER variant (R51): `ON`, `OFF`, `st` (true: showing ON) and the weight `w`. -/
structure FlickerState where
  on : Color
  off : Color
  showOn : Bool
  weight : Word
deriving DecidableEq, Repr

/-- Where a blob lies: `bpos`, `r` and `col` (R54). -/
structure Spot where
  bpos : BitVec 16
  radius : BitVec 16
  color : Color
deriving DecidableEq, Repr

/-- The fields `act`, `bpos`, `r` and `col` of a blob (R54). Before its first spawn a blob is inactive and the last
three are ⊥, so an active blob always has a spot. -/
inductive BlobLife where
  | unborn
  | inactive (spot : Spot)
  | active (spot : Spot)
deriving DecidableEq, Repr

/-- One Lava blob (R54): its countdown `cd` and the rest. -/
structure Blob where
  countdown : Word
  life : BlobLife
deriving DecidableEq, Repr

/-- The LAVA variant (R53, R54): `Bg`, the strip buffer `buf` and the blob pool `blob`. -/
structure LavaState where
  background : Color
  buf : List Color
  blobs : List Blob
deriving DecidableEq, Repr

/-- The pattern-state record `ps`, a tagged union (R46). `bot` is ⊥: nothing has written it since reset or the last
successful SETPAT (00_scope R14; log 9). -/
inductive PatternState where
  | bot
  | solid
  | pulse (p : PulseState)
  | cylon (p : CylonState)
  | alternate (phase : Bool)
  | flicker (p : FlickerState)
  | lava (p : LavaState)
deriving DecidableEq, Repr

/-! ## Ports to the other agents -/

/-- One event of the render output port (43_interfaces R230). -/
inductive Event where
  | pixel (c : Color)
  | latch
deriving DecidableEq, Repr

/-- One request to the Random source (00_scope R12). -/
inductive DrawRequest where
  | draw7
  | drawBit
  | drawRange (lo hi : Nat)
deriving DecidableEq, Repr

/-- A request to the Random source with the answer it got (R125). -/
structure Draw where
  request : DrawRequest
  answer : Nat
deriving DecidableEq, Repr

/-- The Random source's port (R125; log 2): the answers the source has ready, first one first, and every request made
so far with its answer, in order. -/
structure RandomPort where
  queued : List Nat
  asked : List Draw
deriving DecidableEq, Repr

/-- What a Host transaction does: read a word, or write one (20_memory R70). -/
inductive BusOp where
  | read
  | write (data : Word)
deriving DecidableEq, Repr

/-- A Host transaction on the window: the offset from BASE, the size in bytes and the operation (R70, R73, R90). -/
structure Transaction where
  off : Offset
  size : Nat
  op : BusOp
deriving DecidableEq, Repr

/-- What can come to the Block from outside, one at a time: a Host transaction (R80) or the reset input (R280). -/
inductive Input where
  | bus (t : Transaction)
  | reset
deriving DecidableEq, Repr

/-- What the bus answered to the last transaction (R90, R254; log 4). -/
inductive BusReply where
  /-- No transaction since reset. -/
  | idle
  /-- A write was performed. -/
  | written
  /-- A read returned this word. -/
  | data (w : Word)
  /-- A write raised BusError. -/
  | writeError
  /-- A read raised BusError; the word on the bus is a free value (R254; log 5). -/
  | readError (w : Word)
deriving DecidableEq, Repr

/-! ## The machine -/

/-- The whole machine: the host registers (10_state R30), the pattern state (R46), the build parameters (00_scope R8)
and the model's own fields for ports and agents (INVENTORY.md, State). -/
structure State where
  /-- STATUS: ERR[3:0], RAN[4], INIT[5] (R34). -/
  status : BitVec 6
  /-- CFG_KIND (R35). -/
  cfgKind : BitVec 3
  /-- CFG_COLOR_A (R36). -/
  cfgColorA : Color
  /-- CFG_COLOR_B (R37). -/
  cfgColorB : Color
  /-- CFG_SPEED (R38). -/
  cfgSpeed : Word
  /-- ACT_KIND (R39). -/
  actKind : BitVec 3
  /-- ACT_COLOR_A (R40). -/
  actColorA : Color
  /-- ACT_COLOR_B (R41). -/
  actColorB : Color
  /-- ACT_SPEED (R42). -/
  actSpeed : Word
  /-- NOW (R43). -/
  now : Word
  /-- NEXT_DUE (R45). -/
  nextDue : Word
  /-- LAST_DELAY (R55). -/
  lastDelay : Word
  /-- OPA (R56). -/
  opa : Color
  /-- OPB (R57). -/
  opb : Color
  /-- RES (R58). -/
  res : Color
  /-- The pattern private state `ps` (R46). -/
  ps : PatternState
  /-- The build parameters (R8), among them the registers PIXELS and NBLOBS (R59, R60); nothing changes them. -/
  params : Params
  /-- The input `initial` of an advance (41_patterns R150; log 8). -/
  advInitial : Bool
  /-- The delay the last advance returned (R150; log 8). -/
  advDelay : Word
  /-- The bus's answer to the last transaction (log 4). -/
  reply : BusReply
  /-- How many reads have ended in BusError: it indexes the free data word (log 5). -/
  busErrors : Nat
  /-- What the Host and the platform will send, first one first (R6, R7; log 3). -/
  pending : List Input
  /-- The Random source's port (log 2). -/
  random : RandomPort
  /-- Whether the Render sink accepts events (R86; log 7). -/
  sinkReady : Bool
  /-- Every event emitted so far, in order (R230; log 6). -/
  out : List Event
deriving DecidableEq, Repr

/-- Why the machine stops. Both are faults of the model that the spec names and that no run reaches. -/
inductive Fault where
  /-- A TICK that is due, with ACT_KIND 6 or 7 (30_encoding R98, I11; log 10). Raised by `advance`. Safe: SETPAT never writes
  such a kind (R39). -/
  | unreachableKind
  /-- An advance that reads pattern state nothing has written, ⊥ (00_scope R14, I10). Raised by the advance
  operations. Safe: no run reaches it (R52). -/
  | undefinedPattern
deriving DecidableEq, Repr

/-- Why the model gives no meaning. -/
inductive Refusal where
  /-- The instruction has no meaning in the model yet. No arm of `exec` answers it: every instruction has its meaning.
  Safe. -/
  | notModelled (mnemonic : String)
deriving DecidableEq, Repr

/-- A device with parameters `p` right after reset (70_reset R281, R282). The model's own fields are at the values of
logs 2 to 8. -/
def State.resetWith (p : Params) : State where
  status := 0
  cfgKind := 0
  cfgColorA := 0
  cfgColorB := 0
  cfgSpeed := 0
  actKind := 0
  actColorA := 0
  actColorB := 0
  actSpeed := 0
  now := 0
  nextDue := 0
  lastDelay := 0
  opa := 0
  opb := 0
  res := 0
  ps := .bot
  params := p
  advInitial := false
  advDelay := 0
  reply := .idle
  busErrors := 0
  pending := []
  random := { queued := [], asked := [] }
  sinkReady := true
  out := []

/-- The machine right after reset (R281, R282), of the device whose parameters are open (R8; log 1). -/
def State.reset : State := State.resetWith Config.device

end Sys2Proof.Machine
end

