-- ==== Sys2Proof/Machine/Flags.lean ====
section
/-! DEFINITION. The flags of STATUS (10_state R34, R62) and the result codes (60_exceptions R251). -/

namespace Sys2Proof.Machine

/-- The result codes (60_exceptions R251). -/
inductive ResultCode where
  | ok | unsupported | illegalCmd | badKind | badColor
deriving DecidableEq, Repr

/-- The value of a result code in STATUS.ERR (R251). -/
def codeValue : ResultCode → BitVec 4
  | .ok => 0
  | .unsupported => 1
  | .illegalCmd => 2
  | .badKind => 3
  | .badColor => 4

/-- STATUS.ERR, bits [3:0] (R34). -/
def errOf (status : BitVec 6) : BitVec 4 := status.extractLsb' 0 4

/-- STATUS.RAN, bit 4 (R34). -/
def ranOf (status : BitVec 6) : Bool := status.getLsbD 4

/-- STATUS.INIT, bit 5 (R34). -/
def initOf (status : BitVec 6) : Bool := status.getLsbD 5

/-- The status word with the fields INIT, RAN and ERR (R34). -/
def statusWord (init ran : Bool) (err : BitVec 4) : BitVec 6 := (BitVec.ofBool init ++ BitVec.ofBool ran) ++ err

/-- `STATUS.ERR <- code`; RAN and INIT keep their values (R34, R250). -/
def withErr (code : ResultCode) (status : BitVec 6) : BitVec 6 :=
  statusWord (initOf status) (ranOf status) (codeValue code)

/-- `STATUS.RAN <- ran; STATUS.INIT <- init`; ERR keeps its value (R34, R202). -/
def withTickFlags (ran init : Bool) (status : BitVec 6) : BitVec 6 := statusWord init ran (errOf status)

end Sys2Proof.Machine
end

