-- ==== Sys2Proof/WellFormed.lean ====
section
/-! DEFINITION. When an instruction can be encoded: the one constraint of the formats that the operand types do not hold. -/

namespace Sys2Proof

/-- `OFF[1:0] = 00` (30_encoding R90, 20_memory R73). -/
def Offset.aligned (off : Offset) : Bool := off.toNat % 4 == 0

/-- A transaction's offset is word aligned (R90); every other operand fits its field by its type. -/
def Instr.wf : Instr → Bool
  | .rd off => Offset.aligned off
  | .wr off _ => Offset.aligned off
  | .nop | .setpat | .tick | .mix _ | .dim _ | .morph | .expand | .parse => true
  | .advSolid | .advPulse | .advCylon | .advAlternate | .advFlicker | .advLava => true

end Sys2Proof
end

