-- ==== Sys2Proof/Decode.lean ====
section
/-! DEFINITION. Decoding and encoding of the three formats (30_encoding R90 to R98), and the opcode table's rows. -/

namespace Sys2Proof

/-- A word of one of the three formats: a Host transaction (R90), the word written to CMD (R91), a pattern kind (R98). -/
inductive Encoded where
  | cmd (w : Word)
  | bus (w : BitVec 41)
  | kind (k : BitVec 3)
deriving DecidableEq, Repr

/-- Why a word is no instruction. -/
inductive Reject where
  /-- OP is 0x8 to 0xF (R95). -/
  | reservedOp
  /-- RSV is not 0 (R95). -/
  | reservedBits
  /-- N is not 0 and OP is neither MIX nor DIM (R95). -/
  | strayRatio
  /-- OFF[1:0] is not 00 (R90). -/
  | misaligned
  /-- A read whose DATA field is not 0 (R90). -/
  | readWithData
  /-- A kind code 6 or 7 (R98). -/
  | noKind
deriving DecidableEq, Repr

/-- `OP = DATA[3:0]` (R91). -/
def cmdOp (w : Word) : BitVec 4 := w.extractLsb' 0 4

/-- `N = DATA[10:4]` (R91). -/
def cmdN (w : Word) : Ratio := w.extractLsb' 4 7

/-- `RSV = DATA[31:11]` (R91). -/
def cmdRsv (w : Word) : BitVec 21 := w.extractLsb' 11 21

/-- The command that a legal OP and N stand for (R92); `none` for OP 0x8 to 0xF. -/
def commandOf (op : BitVec 4) (n : Ratio) : Option Command :=
  match op.toNat with
  | 0 => some .nop
  | 1 => some .setpat
  | 2 => some .tick
  | 3 => some (.mix n)
  | 4 => some (.dim n)
  | 5 => some .morph
  | 6 => some .expand
  | 7 => some .parse
  | _ => none

/-- The decode of a CMD word (R96). -/
def decodeCmd (w : Word) : Except Reject Command :=
  match commandOf (cmdOp w) (cmdN w) with
  | none => .error .reservedOp
  | some c =>
    if cmdRsv w ≠ 0 then .error .reservedBits
    else if cmdN w ≠ 0 ∧ cmdOp w ≠ 3 ∧ cmdOp w ≠ 4 then .error .strayRatio
    else .ok c

/-- `W`, bit 40 of a transaction (R90): 1 is a write. -/
def busW (w : BitVec 41) : BitVec 1 := w.extractLsb' 40 1

/-- `OFF`, bits [39:32] of a transaction (R90). -/
def busOff (w : BitVec 41) : Offset := w.extractLsb' 32 8

/-- `DATA`, bits [31:0] of a transaction (R90). -/
def busData (w : BitVec 41) : Word := w.extractLsb' 0 32

/-- The decode of a Host transaction (R90). -/
def decodeBus (w : BitVec 41) : Except Reject Instr :=
  if Offset.aligned (busOff w) = false then .error .misaligned
  else if busW w = 1 then .ok (.wr (busOff w) (busData w))
  else if busData w ≠ 0 then .error .readWithData
  else .ok (.rd (busOff w))

/-- The kind of a 3-bit code (10_state R32, 30_encoding R98); codes 6 and 7 are not kinds. -/
def decodeKind (k : BitVec 3) : Option Kind :=
  match k.toNat with
  | 0 => some .solid
  | 1 => some .pulse
  | 2 => some .cylon
  | 3 => some .alternate
  | 4 => some .flicker
  | 5 => some .lava
  | _ => none

/-- The instruction a word of any format stands for. -/
def decode : Encoded → Except Reject Instr
  | .cmd w => (decodeCmd w).map Command.toInstr
  | .bus w => decodeBus w
  | .kind k => match decodeKind k with
    | some k => .ok k.toInstr
    | none => .error .noKind

/-! ## Encoding -/

/-- The CMD word `{RSV = 0, N, OP}` (R91). -/
def cmdWord (n : Ratio) (op : BitVec 4) : Word := (0#21 ++ n) ++ op

/-- The transaction `{W, OFF, DATA}` (R90). -/
def busWord (w : BitVec 1) (off : Offset) (data : Word) : BitVec 41 := (w ++ off) ++ data

/-- The CMD word of a command (R92). -/
def Command.word : Command → Word
  | .nop => cmdWord 0 0x0
  | .setpat => cmdWord 0 0x1
  | .tick => cmdWord 0 0x2
  | .mix n => cmdWord n 0x3
  | .dim n => cmdWord n 0x4
  | .morph => cmdWord 0 0x5
  | .expand => cmdWord 0 0x6
  | .parse => cmdWord 0 0x7

/-- The code of a kind (R32). -/
def Kind.code : Kind → BitVec 3
  | .solid => 0
  | .pulse => 1
  | .cylon => 2
  | .alternate => 3
  | .flicker => 4
  | .lava => 5

/-- The word of an instruction, in its own format (R90 to R92, R98). -/
def encode : Instr → Encoded
  | .nop => .cmd (Command.word .nop)
  | .setpat => .cmd (Command.word .setpat)
  | .tick => .cmd (Command.word .tick)
  | .mix n => .cmd (Command.word (.mix n))
  | .dim n => .cmd (Command.word (.dim n))
  | .morph => .cmd (Command.word .morph)
  | .expand => .cmd (Command.word .expand)
  | .parse => .cmd (Command.word .parse)
  | .rd off => .bus (busWord 0 off 0)
  | .wr off data => .bus (busWord 1 off data)
  | .advSolid => .kind (Kind.code .solid)
  | .advPulse => .kind (Kind.code .pulse)
  | .advCylon => .kind (Kind.code .cylon)
  | .advAlternate => .kind (Kind.code .alternate)
  | .advFlicker => .kind (Kind.code .flicker)
  | .advLava => .kind (Kind.code .lava)

/-! ## The opcode table -/

/-- The format whose words have `nbits` bits in whole bytes: KIND 8, CMD 32, BUS 48; bits above the format's width
must be 0 (log 12). -/
def encodedOfBits (nbits w : Nat) : Option Encoded :=
  if nbits ≤ 8 then if w < 2 ^ 3 then some (.kind (BitVec.ofNat 3 w)) else none
  else if nbits ≤ 32 then if w < 2 ^ 32 then some (.cmd (BitVec.ofNat 32 w)) else none
  else if w < 2 ^ 41 then some (.bus (BitVec.ofNat 41 w)) else none

/-- The instruction of a word given as the opcode table numbers its bits (log 12). -/
def decodeTableWord (nbits w : Nat) : Option Instr :=
  match encodedOfBits nbits w with
  | some e => match decode e with
    | .ok i => some i
    | .error _ => none
  | none => none

/-- A format CMD row of the opcode table: a word belongs to it when `word &&& mask = pattern` (R92). -/
def cmdTable : List (Word × Word) :=
  [ (0xFFFFFFFF, 0x00000000), (0xFFFFFFFF, 0x00000001), (0xFFFFFFFF, 0x00000002), (0xFFFFF80F, 0x00000003),
    (0xFFFFF80F, 0x00000004), (0xFFFFFFFF, 0x00000005), (0xFFFFFFFF, 0x00000006), (0xFFFFFFFF, 0x00000007) ]

/-- The number of CMD rows of the opcode table that a word belongs to. -/
def cmdRowsOf (w : Word) : Nat := (cmdTable.filter fun r => w &&& r.1 == r.2).length

end Sys2Proof
end

