-- ==== Sys2Proof/Machine/Operands.lean ====
section
/-! DEFINITION. Operand forms: colour words and their channels (10_state R31, 40_color_math R120), and the register map
(10_state R30): which offset is which register, its access rule, its value and what a write stores. -/

namespace Sys2Proof.Machine

/-! ## Colour words -/

/-- `R(c) = c[23:16]` (00_scope R13). -/
def red (c : Color) : Channel := c.extractLsb' 16 8

/-- `G(c) = c[15:8]` (R13). -/
def green (c : Color) : Channel := c.extractLsb' 8 8

/-- `B(c) = c[7:0]` (R13). -/
def blue (c : Color) : Channel := c.extractLsb' 0 8

/-- `rgb(r, g, b) = {r[7:0], g[7:0], b[7:0]}` (R13). -/
def rgb (r g b : Channel) : Color := (r ++ g) ++ b

/-- `m(ch) = ch[6:0]`, the channel masking of every colour math function (R120). -/
def masked (ch : Channel) : Nat := ch.toNat % 128

/-- The colour whose channels are `m` of the channels of `c` (R120, R127: `m(a)`). -/
def maskColor (c : Color) : Color :=
  rgb (BitVec.ofNat 8 (masked (red c))) (BitVec.ofNat 8 (masked (green c))) (BitVec.ofNat 8 (masked (blue c)))

/-- The colour word 0x000000 (R122, R281; log 14). -/
def black : Color := 0x000000

/-- The sentinel RANDOM (R31). -/
def randomColor : Color := 0x808080

/-- The sentinel RANDOM_PRIMARY (R31). -/
def randomPrimaryColor : Color := 0x818181

/-- All three channels are at most 0x7F (R31). -/
def isConcrete (c : Color) : Bool := (red c).toNat ≤ 0x7F && (green c).toNat ≤ 0x7F && (blue c).toNat ≤ 0x7F

/-- Concrete, or one of the two sentinels: `valid(c)` (R31, 42_scheduler R201). -/
def isValid (c : Color) : Bool := isConcrete c || c == randomColor || c == randomPrimaryColor

/-! ## The register map -/

/-- The offset of a register (10_state R30). -/
def offsetOf : HostReg → Offset
  | .cmd => 0x00
  | .status => 0x04
  | .cfgKind => 0x08
  | .cfgColorA => 0x0C
  | .cfgColorB => 0x10
  | .cfgSpeed => 0x14
  | .actKind => 0x18
  | .actColorA => 0x1C
  | .actColorB => 0x20
  | .actSpeed => 0x24
  | .now => 0x28
  | .nextDue => 0x2C
  | .lastDelay => 0x30
  | .opa => 0x34
  | .opb => 0x38
  | .res => 0x3C
  | .pixels => 0x40
  | .nblobs => 0x44

/-- The registers in the order of the map. -/
def hostRegs : List HostReg :=
  [ .cmd, .status, .cfgKind, .cfgColorA, .cfgColorB, .cfgSpeed, .actKind, .actColorA, .actColorB, .actSpeed, .now,
    .nextDue, .lastDelay, .opa, .opb, .res, .pixels, .nblobs ]

/-- The register at an offset; `none` at an unmapped or misaligned one (R30, 20_memory R73, R74). -/
def regAt (off : Offset) : Option HostReg := hostRegs.find? fun r => offsetOf r == off

/-- The access rule of a register (R30). -/
def accessOf : HostReg → Access
  | .cmd => .writeOnly
  | .cfgKind | .cfgColorA | .cfgColorB | .cfgSpeed | .now | .opa | .opb => .readWrite
  | .status | .actKind | .actColorA | .actColorB | .actSpeed | .nextDue | .lastDelay | .res | .pixels | .nblobs =>
    .readOnly

/-- The 32-bit word a read of a register returns: reserved bits are zero, CMD reads 0 (R30, R33). -/
def readHostReg (r : HostReg) (s : State) : Word :=
  match r with
  | .cmd => 0
  | .status => s.status.setWidth 32
  | .cfgKind => s.cfgKind.setWidth 32
  | .cfgColorA => s.cfgColorA.setWidth 32
  | .cfgColorB => s.cfgColorB.setWidth 32
  | .cfgSpeed => s.cfgSpeed
  | .actKind => s.actKind.setWidth 32
  | .actColorA => s.actColorA.setWidth 32
  | .actColorB => s.actColorB.setWidth 32
  | .actSpeed => s.actSpeed
  | .now => s.now
  | .nextDue => s.nextDue
  | .lastDelay => s.lastDelay
  | .opa => s.opa.setWidth 32
  | .opb => s.opb.setWidth 32
  | .res => s.res.setWidth 32
  | .pixels => BitVec.ofNat 32 s.params.pixels
  | .nblobs => BitVec.ofNat 32 s.params.nblobs

/-- What a write to a read/write register stores: its used bits (R30, R76). A register that a write does not store to
is left alone. -/
def storeHostReg (r : HostReg) (v : Word) (s : State) : State :=
  match r with
  | .cfgKind => { s with cfgKind := v.setWidth 3 }
  | .cfgColorA => { s with cfgColorA := v.setWidth 24 }
  | .cfgColorB => { s with cfgColorB := v.setWidth 24 }
  | .cfgSpeed => { s with cfgSpeed := v }
  | .now => { s with now := v }
  | .opa => { s with opa := v.setWidth 24 }
  | .opb => { s with opb := v.setWidth 24 }
  | .cmd | .status | .actKind | .actColorA | .actColorB | .actSpeed | .nextDue | .lastDelay | .res | .pixels
  | .nblobs => s

/-! ## The window in the Host's address space -/

/-- The bus address of an offset, `BASE + off` (20_memory R70). -/
def busAddress (p : Params) (off : Offset) : Nat := p.base + off.toNat

/-- The offset of a bus address, if the address lies in the window (R70; log 15). -/
def windowOffset (p : Params) (addr : Nat) : Option Offset :=
  if p.base ≤ addr ∧ addr < p.base + 256 then some (BitVec.ofNat 8 (addr - p.base)) else none

end Sys2Proof.Machine
end

