-- ==== Sys2Proof/Machine/Ops.lean ====
section
/-! DEFINITION. The operations the instructions share: ending a command (R250), the bus error (R254), draws (R125), events
and frames (R230 to R233), the reset input (R280), and taking a transaction from the Host (R80). -/

namespace Sys2Proof.Machine

/-- One outcome followed by an update of its next state. -/
def thenUpdate (o : Host.Outcome State Fault Refusal) (f : State → State) : Host.Outcome State Fault Refusal :=
  match o with
  | .next s => .next (f s)
  | .fault r => .fault r
  | .refused r => .refused r

/-! ## Results: how a command and a transaction end -/

/-- `CmdResult(code)`: writes STATUS.ERR and nothing else (60_exceptions R250). -/
def cmdResult (code : ResultCode) (s : State) : State := { s with status := withErr code s.status }

/-- TICK's write of STATUS.RAN and STATUS.INIT (42_scheduler R202). -/
def setTickFlags (ran init : Bool) (s : State) : State := { s with status := withTickFlags ran init s.status }

/-- `RES <- c` (40_color_math R127 to R130). -/
def setRes (c : Color) (s : State) : State := { s with res := c }

/-- The bus answers the transaction (30_encoding R90). -/
def answer (r : BusReply) (s : State) : State := { s with reply := r }

/-- `raise BusError`, the one exception of the machine: the transaction ends unperformed and no state of the Block
changes; the Host sees the error, and a read's data word is a free value (60_exceptions R254; logs 4, 5). -/
def busError (op : BusOp) (s : State) : State :=
  match op with
  | .read => { s with reply := .readError (Config.freeErrorData s.busErrors), busErrors := s.busErrors + 1 }
  | .write _ => { s with reply := .writeError }

/-! ## The Random source -/

/-- The least answer of a request (00_scope R12). -/
def requestLo : DrawRequest → Nat
  | .draw7 => 0
  | .drawBit => 0
  | .drawRange lo _ => lo

/-- The greatest answer of a request (R12). -/
def requestHi : DrawRequest → Nat
  | .draw7 => 127
  | .drawBit => 1
  | .drawRange _ hi => hi

/-- `v` itself if it lies in [lo, hi], else a number of that range (log 2). -/
def intoRange (lo hi v : Nat) : Nat := if lo ≤ v ∧ v ≤ hi then v else lo + v % (hi - lo + 1)

/-- The answer to the next request: the source's next queued answer, or a free value when it has none, brought into
the request's range (R125; log 2). -/
def nextAnswer (q : DrawRequest) (p : RandomPort) : Nat :=
  intoRange (requestLo q) (requestHi q) (p.queued.headD (Config.freeAnswer p.asked.length))

/-- One request to the Random source (R12, R125): its answer and the port after it. -/
def ask (q : DrawRequest) (p : RandomPort) : Nat × RandomPort :=
  (nextAnswer q p, { queued := p.queued.tail, asked := p.asked ++ [⟨q, nextAnswer q p⟩] })

/-- Three requests of one kind, the answers in the order they are made (R124). -/
def askThree (q : DrawRequest) (p : RandomPort) : (Nat × Nat × Nat) × RandomPort :=
  let a := ask q p
  let b := ask q a.2
  let c := ask q b.2
  ((a.1, b.1, c.1), c.2)

/-- The port of the Random source after a command's draws. -/
def setRandom (p : RandomPort) (s : State) : State := { s with random := p }

/-! ## The Render sink -/

/-- The events of one frame: a Pixel for each colour, then a Latch (43_interfaces R231). -/
def frameOf (colors : List Color) : List Event := colors.map .pixel ++ [.latch]

/-- `Emit` of a list of events, in order (R12, R230). -/
def emit (es : List Event) (s : State) : State := { s with out := s.out ++ es }

/-- `DrawFrame(list)` (R233). -/
def drawFrame (colors : List Color) (s : State) : State := emit (frameOf colors) s

/-- `DrawSolid(c)`: P times Pixel(c), then Latch (R232). -/
def drawSolid (c : Color) (s : State) : State := drawFrame (List.replicate s.params.pixels c) s

/-! ## Pattern state -/

/-- The pattern-state record after an advance (10_state R46). -/
def setPs (p : PatternState) (s : State) : State := { s with ps := p }

/-- The delay an advance returns (41_patterns R150; log 8). -/
def returnDelay (d : Word) (s : State) : State := { s with advDelay := d }

/-! ## Transactions and reset -/

/-- The 41-bit word of a transaction (30_encoding R90): DATA is 0 for a read. -/
def transactionWord (t : Transaction) : BitVec 41 :=
  match t.op with
  | .read => busWord 0 t.off 0
  | .write d => busWord 1 t.off d

/-- The transaction of a 41-bit word: size 4 (R72, R90). -/
def transactionOf (w : BitVec 41) : Transaction :=
  { off := busOff w, size := 4, op := if busW w = 1 then .write (busData w) else .read }

/-- The instruction a transaction is; `none` if its size is not 4 or its offset is misaligned (R73, R255). -/
def fetch (t : Transaction) : Option Instr :=
  if t.size ≠ 4 then none
  else match decode (.bus (transactionWord t)) with
    | .ok i => some i
    | .error _ => none

/-- The transaction that writes a command word (R33, R91). -/
def cmdTransaction (w : Word) : Transaction := { off := offsetOf .cmd, size := 4, op := .write w }

/-- A Host access `MemRead(addr, size)` or `MemWrite(addr, size, v)` (R70) sent to the Block after those already
waiting; `none` if the address lies outside the window, so that the access is not the Block's (log 15). -/
def submit (addr size : Nat) (op : BusOp) (s : State) : Option State :=
  (windowOffset s.params addr).map fun off => { s with pending := s.pending ++ [.bus { off, size, op }] }

/-- The reset input (70_reset R280 to R282): all state of the Block at its reset value; what is outside the Block (the
Random source, the sink and the events it has had, the coming transactions) is untouched (log 13). -/
def powerOn (s : State) : State :=
  { State.resetWith s.params with
      busErrors := s.busErrors, pending := s.pending, random := s.random, sinkReady := s.sinkReady, out := s.out }

/-- A step that would emit events to a sink that does not accept them does not complete: the state `s` before it stands
(20_memory R86; log 7). DESIGN CHOICE (log 20): what stands behind the held transaction waits with it, a reset too (R280). -/
def holdForSink (s : State) (o : Host.Outcome State Fault Refusal) : Host.Outcome State Fault Refusal :=
  match o with
  | .next t => if s.sinkReady then .next t else if t.out.length = s.out.length then .next t else .next s
  | .fault r => .fault r
  | .refused r => .refused r

/-- `s` with the instruction of a table word placed so that the next step runs it (log 12): a transaction or a CMD write
at the head of the pending ones; for a pattern kind, that kind active with an initial TICK at the head. -/
def placeWord (e : Encoded) (s : State) : State :=
  match e with
  | .bus w => { s with pending := .bus (transactionOf w) :: s.pending, sinkReady := true }
  | .cmd w => { s with pending := .bus (cmdTransaction w) :: s.pending, sinkReady := true }
  | .kind k => { s with pending := .bus (cmdTransaction (Command.word .tick)) :: s.pending, sinkReady := true,
                        actKind := k, nextDue := 0 }

end Sys2Proof.Machine
end

