-- ==== Sys2Proof/Machine/Interfaces.lean ====
section
/-! DEFINITION. The external interfaces (43_interfaces): PARSE, the bytes the Render sink makes of the events, and the
status text that an outside surface builds from the ACT_* registers. -/

namespace Sys2Proof.Machine

/-- PARSE, which always fails (R239). -/
def execParse (s : State) : Host.Outcome State Fault Refusal := .next (cmdResult .unsupported s)

/-! ## The Render sink's byte form, outside the Block (log 16) -/

/-- A channel with the framing bit set (R234). -/
def framed (ch : Channel) : Byte := ch ||| 0x80

/-- The number of zero bytes of a latch on a strip of P pixels, `ceil(P/32) * 8` (R235). -/
def latchLength (pixels : Nat) : Nat := (pixels + 31) / 32 * 8

/-- The bytes the sink sends for one event: green, red, blue, or a latch (R234, R235). -/
def eventBytes (pixels : Nat) : Event → List Byte
  | .pixel c => [framed (green c), framed (red c), framed (blue c)]
  | .latch => List.replicate (latchLength pixels) 0x00

/-- The bytes on the LED bus for a list of events, in order (R234, R235). -/
def busBytes (pixels : Nat) (es : List Event) : List Byte := (es.map (eventBytes pixels)).flatten

/-! ## The status text, outside the Block (log 16) -/

/-- NAME(kind) (R237). -/
def kindName : Kind → List Char
  | .solid => "SOLID".toList
  | .pulse => "PULSE".toList
  | .cylon => "CYLON".toList
  | .alternate => "ALTERNATE".toList
  | .flicker => "FLICKER".toList
  | .lava => "LAVA".toList

/-- One upper-case hexadecimal digit (R238). -/
def hexDigit (n : Nat) : Char := if n < 10 then Char.ofNat (48 + n) else Char.ofNat (55 + n)

/-- The `digits` lowest hexadecimal digits of a number, the highest first (R238). -/
def hexDigits : Nat → Nat → List Char
  | 0, _ => []
  | k + 1, n => hexDigits k (n / 16) ++ [hexDigit (n % 16)]

/-- HEX(c): `0x` and exactly six digits (R238). -/
def hexText (c : Color) : List Char := "0x".toList ++ hexDigits 6 c.toNat

/-- The decimal digits of a number below 10^fuel, without leading zeros (R238). -/
def decDigits : Nat → Nat → List Char
  | 0, _ => []
  | fuel + 1, n => if n < 10 then [Char.ofNat (48 + n)] else decDigits fuel (n / 10) ++ [Char.ofNat (48 + n % 10)]

/-- DEC(s), the unsigned decimal form of a 32-bit number (R238). -/
def decText (n : Word) : List Char := decDigits 10 n.toNat

/-- The status text of the active configuration (R236); `none` for a kind code that has no name (R237). -/
def statusText (s : State) : Option (List Char) :=
  (decodeKind s.actKind).map fun k =>
    kindName k ++ [','] ++ hexText s.actColorA ++ [','] ++ hexText s.actColorB ++ [','] ++ decText s.actSpeed

end Sys2Proof.Machine
end

