-- ==== Sys2Proof/Machine/ColorMath.lean ====
section
/-! DEFINITION. The colour math unit (40_color_math): mix, dim, morph and expand, and the commands MIX, DIM, MORPH, EXPAND. -/

namespace Sys2Proof.Machine

/-- One formula on the masked channels of two colours, the results packed (00_scope R13, R120). -/
def perChannel (f : Nat → Nat → Nat) (a b : Color) : Color :=
  rgb (BitVec.ofNat 8 (f (masked (red a)) (masked (red b)))) (BitVec.ofNat 8 (f (masked (green a)) (masked (green b))))
    (BitVec.ofNat 8 (f (masked (blue a)) (masked (blue b))))

/-- `(x * (127 - n) + y * n) div 127` (R121). -/
def mixChannel (n x y : Nat) : Nat := (x * (127 - n) + y * n) / 127

/-- The blend of two colours at ratio n/127 (R121). -/
def mix (a b : Color) (n : Ratio) : Color := perChannel (mixChannel n.toNat) a b

/-- `dim(c, n) = mix(BLACK, c, n)` (R122). -/
def dim (c : Color) (n : Ratio) : Color := mix black c n

/-- One unit from `x` toward `y` (R123). -/
def morphChannel (x y : Nat) : Nat := if x < y then x + 1 else if y < x then x - 1 else x

/-- The single convergence step of a colour toward a target (R123). -/
def morph (base target : Color) : Color := perChannel morphChannel base target

/-- `expand(c)`: a sentinel becomes a drawn colour, every other word is unchanged and nothing is drawn (R124). -/
def expand (c : Color) (p : RandomPort) : Color × RandomPort :=
  if c = randomColor then
    let d := askThree .draw7 p
    (rgb (BitVec.ofNat 8 d.1.1) (BitVec.ofNat 8 d.1.2.1) (BitVec.ofNat 8 d.1.2.2), d.2)
  else if c = randomPrimaryColor then
    let d := askThree .drawBit p
    (rgb (BitVec.ofNat 8 (0x7F * d.1.1)) (BitVec.ofNat 8 (0x7F * d.1.2.1)) (BitVec.ofNat 8 (0x7F * d.1.2.2)), d.2)
  else (c, p)

/-- MIX (R127). -/
def execMix (n : Ratio) (s : State) : Host.Outcome State Fault Refusal :=
  .next (cmdResult .ok (setRes (mix s.opa s.opb n) s))

/-- DIM (R128). -/
def execDim (n : Ratio) (s : State) : Host.Outcome State Fault Refusal :=
  .next (cmdResult .ok (setRes (dim s.opa n) s))

/-- MORPH (R129). -/
def execMorph (s : State) : Host.Outcome State Fault Refusal :=
  .next (cmdResult .ok (setRes (morph s.opa s.opb) s))

/-- EXPAND (R130). -/
def execExpand (s : State) : Host.Outcome State Fault Refusal :=
  let e := expand s.opa s.random
  .next (cmdResult .ok (setRes e.1 (setRandom e.2 s)))

end Sys2Proof.Machine
end

