-- ==== Sys2Proof/Machine/Patterns.lean ====
section
/-! DEFINITION. The six pattern state machines (41_patterns). Each advance takes `initial` from `advInitial` and returns its
delay in `advDelay` (R150; log 8). -/

namespace Sys2Proof.Machine

/-! ## SOLID -/

/-- ADV.SOLID (R152). An initial advance makes SOLID the tag of `ps` (10_state R46, R47). -/
def execAdvSolid (s : State) : Host.Outcome State Fault Refusal :=
  let e := expand s.actColorA s.random
  .next (returnDelay s.actSpeed (drawSolid e.1 (setPs (if s.advInitial then .solid else s.ps) (setRandom e.2 s))))

/-! ## PULSE -/

/-- The PULSE state an advance starts from: reset when initial, else the one held (R153); `none` if that is ⊥. -/
def pulseEntry (s : State) : Option (PulseState × RandomPort) :=
  if s.advInitial then
    let l := expand s.actColorA s.random
    let r := expand s.actColorB l.2
    some ({ left := l.1, right := r.1, up := true, count := 0 }, r.2)
  else match s.ps with
    | .pulse p => some (p, s.random)
    | _ => none

/-- The step of the counter, with the re-expansion at each bound, for the active colours `a` and `b` (R153). -/
def pulseStep (a b : Color) (p : PulseState) (r : RandomPort) : PulseState × RandomPort :=
  if p.up then
    if p.count + 1 = 127 then
      let e := expand a r
      ({ left := e.1, right := p.right, up := false, count := p.count + 1 }, e.2)
    else ({ p with count := p.count + 1 }, r)
  else
    if p.count - 1 = 0 then
      let e := expand b r
      ({ left := p.left, right := e.1, up := true, count := p.count - 1 }, e.2)
    else ({ p with count := p.count - 1 }, r)

/-- ADV.PULSE (R153). -/
def execAdvPulse (s : State) : Host.Outcome State Fault Refusal :=
  match pulseEntry s with
  | none => .fault .undefinedPattern
  | some (p, r) =>
    let n := pulseStep s.actColorA s.actColorB p r
    .next (returnDelay (BitVec.ofNat 32 (s.actSpeed.toNat / 127))
      (drawSolid (mix p.left p.right p.count) (setPs (.pulse n.1) (setRandom n.2 s))))

/-! ## CYLON -/

/-- The CYLON state an advance starts from (R155); `none` if it is ⊥. -/
def cylonEntry (s : State) : Option (CylonState × RandomPort) :=
  if s.advInitial then
    let e := expand s.actColorA s.random
    let b := expand s.actColorB e.2
    some ({ down := false, pos := 0, eye := e.1, background := b.1 }, b.2)
  else match s.ps with
    | .cylon p => some (p, s.random)
    | _ => none

/-- The colour of pixel `i`: the eye, a dimmed edge beside it, or the background (R156). -/
def cylonPixel (edgeN : Ratio) (p : CylonState) (i : Nat) : Color :=
  if i = p.pos.toNat then p.eye
  else if i + 1 = p.pos.toNat ∨ i = p.pos.toNat + 1 then dim p.eye edgeN
  else p.background

/-- The position after `pos` in a direction, as an exact integer (R155: `int nxt`). -/
def cylonNext (down : Bool) (pos : BitVec 16) : Int := (pos.toNat : Int) + (if down then -1 else 1)

/-- Whether a position lies off a strip of P pixels (R155). -/
def offStrip (pixels : Nat) (i : Int) : Bool := decide (i < 0) || decide (i > (pixels : Int) - 1)

/-- The delay before any bounce, `spd div (2 * P)` (R155). -/
def cylonBase (pixels : Nat) (speed : Word) : Nat := speed.toNat / (2 * pixels)

/-- Whether this advance is a bounce (R155). -/
def cylonBounces (pixels : Nat) (p : CylonState) : Bool := offStrip pixels (cylonNext p.down p.pos)

/-- The position after a bounce: one back, or the same when P = 1 (R155). -/
def cylonTurned (pixels : Nat) (p : CylonState) : Int :=
  if offStrip pixels (cylonNext (!p.down) p.pos) then (p.pos.toNat : Int) else cylonNext (!p.down) p.pos

/-- The step of the eye, with the turn and the re-expansion at a bounce, for the active colours `a` and `b` (R155). -/
def cylonStep (pixels : Nat) (a b : Color) (p : CylonState) (r : RandomPort) : CylonState × RandomPort :=
  if cylonBounces pixels p then
    let e := expand a r
    let g := expand b e.2
    ({ down := !p.down, pos := BitVec.ofInt 16 (cylonTurned pixels p), eye := e.1, background := g.1 }, g.2)
  else ({ p with pos := BitVec.ofInt 16 (cylonNext p.down p.pos) }, r)

/-- The delay of an advance from `p`: tripled, in 32 bits, at a bounce (R155). -/
def cylonDelay (pixels : Nat) (speed : Word) (p : CylonState) : Word :=
  BitVec.ofNat 32 (if cylonBounces pixels p then 3 * cylonBase pixels speed else cylonBase pixels speed)

/-- ADV.CYLON (R155, R156). -/
def execAdvCylon (s : State) : Host.Outcome State Fault Refusal :=
  match cylonEntry s with
  | none => .fault .undefinedPattern
  | some (p, r) =>
    let n := cylonStep s.params.pixels s.actColorA s.actColorB p r
    .next (returnDelay (cylonDelay s.params.pixels s.actSpeed p)
      (drawFrame ((List.range s.params.pixels).map (cylonPixel s.params.cylonEdgeN p))
        (setPs (.cylon n.1) (setRandom n.2 s))))

/-! ## ALTERNATE -/

/-- The phase an advance starts from: 0 when initial (R159); `none` if it is ⊥. -/
def alternateEntry (s : State) : Option Bool :=
  if s.advInitial then some false
  else match s.ps with
    | .alternate phase => some phase
    | _ => none

/-- The colour of pixel `i`: `a` on the pixels of one parity, `b` on the others (R159). -/
def alternatePixel (phase : Bool) (a b : Color) (i : Nat) : Color := if (i % 2 == 0) != phase then a else b

/-- ADV.ALTERNATE (R159). -/
def execAdvAlternate (s : State) : Host.Outcome State Fault Refusal :=
  match alternateEntry s with
  | none => .fault .undefinedPattern
  | some phase =>
    let a := expand s.actColorA s.random
    let b := expand s.actColorB a.2
    .next (returnDelay s.actSpeed
      (drawFrame ((List.range s.params.pixels).map (alternatePixel phase a.1 b.1))
        (setPs (.alternate (!phase)) (setRandom b.2 s))))

/-! ## FLICKER -/

/-- The weight walk, with the re-expansion at each clamp, for the active colours `a` and `b` and the drawn step
`d - 1` (R160). -/
def flickerWalk (a b : Color) (speed : Word) (d : Nat) (p : FlickerState) (r : RandomPort) :
    FlickerState × RandomPort :=
  let v : Int := (p.weight.toNat : Int) + ((d : Int) - 1)
  if v < 0 then
    let e := expand a r
    ({ p with weight := 0, on := e.1 }, e.2)
  else if v > (speed.toNat : Int) then
    let e := expand b r
    ({ p with weight := speed, off := e.1 }, e.2)
  else ({ p with weight := BitVec.ofInt 32 v }, r)

/-- Whether the weight shows ON: `w > spd div 2` (R160). -/
def flickerShows (speed : Word) (w : Word) : Bool := decide (w.toNat > speed.toNat / 2)

/-- The initial FLICKER advance: it draws the colours and shows OFF (R160). -/
def flickerStart (s : State) : State :=
  let on := expand s.actColorA s.random
  let off := expand s.actColorB on.2
  drawSolid off.1
    (setPs (.flicker { on := on.1, off := off.1, showOn := false, weight := BitVec.ofNat 32 (s.actSpeed.toNat / 2) })
      (setRandom off.2 s))

/-- A later FLICKER advance: it walks, and draws a frame only when the output state flips (R160). -/
def flickerContinue (p : FlickerState) (s : State) : State :=
  let d := ask (.drawRange 0 2) s.random
  let n := flickerWalk s.actColorA s.actColorB s.actSpeed d.1 p d.2
  let shows := flickerShows s.actSpeed n.1.weight
  let t := setPs (.flicker { n.1 with showOn := shows }) (setRandom n.2 s)
  if shows = p.showOn then t else drawSolid (if shows then n.1.on else n.1.off) t

/-- ADV.FLICKER (R160). -/
def execAdvFlicker (s : State) : Host.Outcome State Fault Refusal :=
  if s.advInitial then .next (returnDelay 10 (flickerStart s))
  else match s.ps with
    | .flicker p => .next (returnDelay 10 (flickerContinue p s))
    | _ => .fault .undefinedPattern

/-! ## LAVA -/

/-- The blobs of an initial advance: inactive, each with a drawn countdown, in pool order (R170). -/
def initialBlobs (offMax : Nat) : Nat → RandomPort → List Blob × RandomPort
  | 0, p => ([], p)
  | n + 1, p =>
    let d := ask (.drawRange 1 offMax) p
    let rest := initialBlobs offMax n d.2
    ({ countdown := BitVec.ofNat 32 d.1, life := .unborn } :: rest.1, rest.2)

/-- `spawn(j)` (R172): the position, the radius, the duration, then the colour. -/
def spawn (params : Params) (a : Color) (r : RandomPort) : Blob × RandomPort :=
  let pos := ask (.drawRange 0 (params.pixels - 1)) r
  let rad := ask (.drawRange 0 (params.pixels - 1)) pos.2
  let dur := ask (.drawRange 1 params.lavaOnMax) rad.2
  let col := expand a dur.2
  ({ countdown := BitVec.ofNat 32 dur.1,
     life := .active { bpos := BitVec.ofNat 16 pos.1, radius := BitVec.ofNat 16 rad.1, color := col.1 } }, col.2)

/-- `despawn(j)` (R173): the spot keeps its values. -/
def despawn (params : Params) (spot : Spot) (r : RandomPort) : Blob × RandomPort :=
  let d := ask (.drawRange 1 params.lavaOffMax) r
  ({ countdown := BitVec.ofNat 32 d.1, life := .inactive spot }, d.2)

/-- `blob_step(j)` (R171). -/
def blobStep (params : Params) (a : Color) (b : Blob) (r : RandomPort) : Blob × RandomPort :=
  if b.countdown - 1 = 0 then
    match b.life with
    | .active spot => despawn params spot r
    | .inactive _ => spawn params a r
    | .unborn => spawn params a r
  else ({ b with countdown := b.countdown - 1 }, r)

/-- `blob_step` on every blob, in pool order (R170). -/
def stepBlobs (params : Params) (a : Color) : List Blob → RandomPort → List Blob × RandomPort
  | [], r => ([], r)
  | b :: bs, r =>
    let b' := blobStep params a b r
    let rest := stepBlobs params a bs b'.2
    (b'.1 :: rest.1, rest.2)

/-- Whether pixel `i` is in `cover(j)`: some k in [-r, r] has `(bpos + k) mod P = i`, by the true modulo (R174, R10).
`k` runs here as `k - r` for k from 0 to 2r. -/
def covers (pixels : Nat) (spot : Spot) (i : Nat) : Bool :=
  (List.range (2 * spot.radius.toNat + 1)).any fun k =>
    ((spot.bpos.toNat : Int) + ((k : Int) - (spot.radius.toNat : Int))) % (pixels : Int) == (i : Int)

/-- The strip after the morph of an active blob's covered pixels toward its colour, each once (R170, R174). -/
def paintBlob (pixels : Nat) (buf : List Color) (b : Blob) : List Color :=
  match b.life with
  | .active spot => buf.mapIdx fun i c => if covers pixels spot i then morph c spot.color else c
  | .inactive _ => buf
  | .unborn => buf

/-- The strip after one advance: every pixel one step toward the background, then each blob in pool order (R170). -/
def lavaBuffer (pixels : Nat) (background : Color) (blobs : List Blob) (buf : List Color) : List Color :=
  blobs.foldl (paintBlob pixels) (buf.map fun c => morph c background)

/-- The LAVA state an advance starts from: reset when initial, else the one held (R170); `none` if some entry of the
buffer or the pool is ⊥ (log 9). -/
def lavaEntry (s : State) : Option (LavaState × RandomPort) :=
  if s.advInitial then
    let g := expand s.actColorB s.random
    let bs := initialBlobs s.params.lavaOffMax s.params.nblobs g.2
    some ({ background := g.1, buf := List.replicate s.params.pixels black, blobs := bs.1 }, bs.2)
  else match s.ps with
    | .lava p =>
      if p.buf.length = s.params.pixels ∧ p.blobs.length = s.params.nblobs then some (p, s.random) else none
    | _ => none

/-- ADV.LAVA (R170 to R174). -/
def execAdvLava (s : State) : Host.Outcome State Fault Refusal :=
  match lavaEntry s with
  | none => .fault .undefinedPattern
  | some (p, r) =>
    let bs := stepBlobs s.params s.actColorA p.blobs r
    let buf := lavaBuffer s.params.pixels p.background bs.1 p.buf
    .next (returnDelay 10
      (drawFrame buf (setPs (.lava { background := p.background, buf := buf, blobs := bs.1 }) (setRandom bs.2 s))))

end Sys2Proof.Machine
end

