-- ==== Sys2Proof/Machine/Scheduler.lean ====
section
/-! DEFINITION. The scheduler commands (42_scheduler): NOP, SETPAT and TICK with its dispatch on ACT_KIND (30_encoding R98). -/

namespace Sys2Proof.Machine

/-- NOP (R200). -/
def execNop (s : State) : Host.Outcome State Fault Refusal := .next (cmdResult .ok s)

/-- The new activation that a successful SETPAT starts: the staged configuration active, NEXT_DUE 0, `ps` ⊥ (R201). -/
def activate (s : State) : State :=
  { s with
      actKind := s.cfgKind, actColorA := s.cfgColorA, actColorB := s.cfgColorB, actSpeed := s.cfgSpeed,
      nextDue := 0, ps := .bot }

/-- SETPAT (R201), with the priority of its errors (60_exceptions R253). -/
def execSetpat (s : State) : Host.Outcome State Fault Refusal :=
  if s.cfgKind.toNat > 5 then .next (cmdResult .badKind s)
  else if isValid s.cfgColorA = false ∨ isValid s.cfgColorB = false then .next (cmdResult .badColor s)
  else .next (cmdResult .ok (activate s))

/-- The one advance that ACT_KIND selects (30_encoding R98, R203). -/
def advance (s : State) : Host.Outcome State Fault Refusal :=
  match decodeKind s.actKind with
  | some .solid => execAdvSolid s
  | some .pulse => execAdvPulse s
  | some .cylon => execAdvCylon s
  | some .alternate => execAdvAlternate s
  | some .flicker => execAdvFlicker s
  | some .lava => execAdvLava s
  | none => .fault .unreachableKind

/-- NEXT_DUE at TICK's comparison: NOW if it was 0, "not yet initialized" (R202). -/
def dueTime (s : State) : Word := if s.nextDue = 0 then s.now else s.nextDue

/-- Whether TICK is due: NOW is not below the due time, unsigned (R202, R206). -/
def isDue (s : State) : Bool := !(decide (s.now < dueTime s))

/-- The state in which TICK runs its advance: NEXT_DUE set, `initial` given (R202). -/
def beforeAdvance (s : State) : State := { s with nextDue := dueTime s, advInitial := s.nextDue == 0 }

/-- What TICK does with the delay the advance returned: NEXT_DUE, modulo 2^32, and LAST_DELAY (R202). -/
def schedule (t : State) : State := { t with nextDue := t.nextDue + t.advDelay, lastDelay := t.advDelay }

/-- TICK (R202 to R207). -/
def execTick (s : State) : Host.Outcome State Fault Refusal :=
  if isDue s then
    thenUpdate (advance (beforeAdvance s)) fun t =>
      cmdResult .ok (setTickFlags true (s.nextDue == 0) (schedule t))
  else .next (cmdResult .ok (setTickFlags false false s))

end Sys2Proof.Machine
end

