-- ==== Sys2Proof/Machine/Bus.lean ====
section
/-! DEFINITION. The two Host transactions (20_memory R70 to R76), and the command a write to CMD performs (30_encoding R96). -/

namespace Sys2Proof.Machine

/-- The command of a decoded CMD word (R96). -/
def runCommand (c : Command) (s : State) : Host.Outcome State Fault Refusal :=
  match c with
  | .nop => execNop s
  | .setpat => execSetpat s
  | .tick => execTick s
  | .mix n => execMix n s
  | .dim n => execDim n s
  | .morph => execMorph s
  | .expand => execExpand s
  | .parse => execParse s

/-- A write to CMD: the whole command, or ILLEGAL_CMD and nothing else (R95, R96). -/
def runCmdWord (w : Word) (s : State) : Host.Outcome State Fault Refusal :=
  match decodeCmd w with
  | .ok c => runCommand c s
  | .error _ => .next (cmdResult .illegalCmd s)

/-- RD: the register's word, or BusError where there is no register, a misaligned offset among them (R73 to R76, R255;
log 18). -/
def execRd (off : Offset) (s : State) : Host.Outcome State Fault Refusal :=
  match regAt off with
  | some r => .next (answer (.data (readHostReg r s)) s)
  | none => .next (busError .read s)

/-- WR: a store, a command, or BusError where there is no register or a read-only one (R73 to R76, R255; log 18). -/
def execWr (off : Offset) (data : Word) (s : State) : Host.Outcome State Fault Refusal :=
  match regAt off with
  | some r =>
    match accessOf r with
    | .readWrite => .next (answer .written (storeHostReg r data s))
    | .writeOnly => thenUpdate (runCmdWord data s) (answer .written)
    | .readOnly => .next (busError (.write data) s)
  | none => .next (busError (.write data) s)

end Sys2Proof.Machine
end

