-- ==== Sys2Proof/Machine/Dispatch.lean ====
section
/-! DEFINITION. The one dispatch: one arm per instruction. -/

namespace Sys2Proof.Machine

def exec (i : Instr) (s : State) : Host.Outcome State Fault Refusal :=
  match i with
  | .nop => Sys2Proof.Machine.execNop s
  | .setpat => Sys2Proof.Machine.execSetpat s
  | .tick => Sys2Proof.Machine.execTick s
  | .mix n => Sys2Proof.Machine.execMix n s
  | .dim n => Sys2Proof.Machine.execDim n s
  | .morph => Sys2Proof.Machine.execMorph s
  | .expand => Sys2Proof.Machine.execExpand s
  | .parse => Sys2Proof.Machine.execParse s
  | .rd off => Sys2Proof.Machine.execRd off s
  | .wr off data => Sys2Proof.Machine.execWr off data s
  | .advSolid => Sys2Proof.Machine.execAdvSolid s
  | .advPulse => Sys2Proof.Machine.execAdvPulse s
  | .advCylon => Sys2Proof.Machine.execAdvCylon s
  | .advAlternate => Sys2Proof.Machine.execAdvAlternate s
  | .advFlicker => Sys2Proof.Machine.execAdvFlicker s
  | .advLava => Sys2Proof.Machine.execAdvLava s

end Sys2Proof.Machine
end

