-- ==== Sys2Proof/Machine/Step.lean ====
section
/-! DEFINITION. One step: the Block serves the next input from outside, one Host transaction at a time (00_scope R7,
20_memory R80; logs 3 and 20). -/

namespace Sys2Proof.Machine

/-- One step. With nothing pending the Block waits (60_exceptions R264). The reset input resets it (70_reset R280). A
transaction of the format BUS runs its instruction; any other is a BusError (20_memory R73). DESIGN CHOICE (log 20): the
spec does not say whether a reset ends a command that the sink holds (R86, R264, R280); here a reset that stands behind a
held transaction waits with it. -/
def step (s : State) : Host.Outcome State Fault Refusal :=
  match s.pending with
  | [] => .next s
  | .reset :: rest => .next (powerOn { s with pending := rest })
  | .bus t :: rest =>
    match fetch t with
    | some i => holdForSink s (exec i { s with pending := rest })
    | none => .next (busError t.op { s with pending := rest })

/-- `s` with the instruction of a table word placed where the next step runs it (log 12). -/
def State.withFetchWord (s : State) (nbits w : Nat) : State :=
  match encodedOfBits nbits w with
  | some e => placeWord e s
  | none => s

end Sys2Proof.Machine
end

