-- ==== Sys2Proof/Machine/Assembler.lean ====
section
/-! DEFINITION. The assembler of host programs (30_encoding R99 to R102), outside the Block: statements, their expansion
into transactions, their text, and the listing form (log 17). -/

namespace Sys2Proof.Machine

/-- A statement of a host program: the two machine statements (R99) and the pseudo-instructions (R101). -/
inductive Statement where
  | wr (r : HostReg) (v : Nat)
  | rd (r : HostReg)
  | cmd (op n : Nat)
  | nop
  | setpat (kind a b speed : Nat)
  | tick (time : Nat)
  | mix (a b n : Nat)
  | dim (a n : Nat)
  | morph (a target : Nat)
  | expand (a : Nat)
  | parse
deriving DecidableEq, Repr

/-! ## Expansion -/

/-- `wr REG, v` for a value of at most `bits` bits; a larger one is refused (R101; log 17). -/
def writeOf (r : HostReg) (bits v : Nat) : Option Instr :=
  if v < 2 ^ bits then some (.wr (offsetOf r) (BitVec.ofNat 32 v)) else none

/-- `wr CMD, (n << 4) | OP`; `n` outside 0 to 127 and an OP of more than 4 bits are refused (R101; log 17). -/
def commandWrite (op n : Nat) : Option Instr :=
  if op < 16 ∧ n < 128 then writeOf .cmd 32 (n * 16 + op) else none

/-- The transactions of a statement (R101); `none` where the assembler refuses it. -/
def expandStatement : Statement → Option (List Instr)
  | .wr r v => [writeOf r 32 v].mapM id
  | .rd r => some [.rd (offsetOf r)]
  | .cmd op n => [commandWrite op n].mapM id
  | .nop => [commandWrite 0 0].mapM id
  | .setpat k a b s =>
    [writeOf .cfgKind 3 k, writeOf .cfgColorA 24 a, writeOf .cfgColorB 24 b, writeOf .cfgSpeed 32 s,
      commandWrite 1 0].mapM id
  | .tick t => [writeOf .now 32 t, commandWrite 2 0].mapM id
  | .mix a b n => [writeOf .opa 24 a, writeOf .opb 24 b, commandWrite 3 n].mapM id
  | .dim a n => [writeOf .opa 24 a, commandWrite 4 n].mapM id
  | .morph a t => [writeOf .opa 24 a, writeOf .opb 24 t, commandWrite 5 0].mapM id
  | .expand a => [writeOf .opa 24 a, commandWrite 6 0].mapM id
  | .parse => [commandWrite 7 0].mapM id

/-! ## Text -/

/-- The register names (10_state R30). -/
def regName : HostReg → List Char
  | .cmd => "CMD".toList
  | .status => "STATUS".toList
  | .cfgKind => "CFG_KIND".toList
  | .cfgColorA => "CFG_COLOR_A".toList
  | .cfgColorB => "CFG_COLOR_B".toList
  | .cfgSpeed => "CFG_SPEED".toList
  | .actKind => "ACT_KIND".toList
  | .actColorA => "ACT_COLOR_A".toList
  | .actColorB => "ACT_COLOR_B".toList
  | .actSpeed => "ACT_SPEED".toList
  | .now => "NOW".toList
  | .nextDue => "NEXT_DUE".toList
  | .lastDelay => "LAST_DELAY".toList
  | .opa => "OPA".toList
  | .opb => "OPB".toList
  | .res => "RES".toList
  | .pixels => "PIXELS".toList
  | .nblobs => "NBLOBS".toList

/-- The symbols (R100; log 14). There is no SIGN. -/
def symbols : List (List Char × Nat) :=
  [ ("SOLID".toList, 0), ("PULSE".toList, 1), ("CYLON".toList, 2), ("ALTERNATE".toList, 3), ("FLICKER".toList, 4),
    ("LAVA".toList, 5), ("RED".toList, 0x7F0000), ("BLUE".toList, 0x00007F), ("RANDOM".toList, 0x808080),
    ("RANDOM_PRIMARY".toList, 0x818181), ("BLACK".toList, 0x000000), ("WHITE".toList, 0x7F7F7F),
    ("GREEN".toList, 0x007F00), ("YELLOW".toList, 0x7F7F00) ]

/-- The value of a digit in a base up to 16. -/
def digitValue (base : Nat) (c : Char) : Option Nat :=
  let n := c.toNat
  let d := if 48 ≤ n ∧ n ≤ 57 then n - 48 else if 65 ≤ n ∧ n ≤ 70 then n - 55
    else if 97 ≤ n ∧ n ≤ 102 then n - 87 else 16
  if d < base then some d else none

/-- The number a digit string stands for, after `acc`. -/
def digitsValue (base : Nat) : List Char → Nat → Option Nat
  | [], acc => some acc
  | c :: cs, acc => match digitValue base c with
    | some d => digitsValue base cs (acc * base + d)
    | none => none

/-- A value: a decimal literal, a `0x` literal or a symbol (R99). -/
def parseValue (tok : List Char) : Option Nat :=
  match symbols.find? fun p => p.1 == tok with
  | some p => some p.2
  | none => match tok with
    | [] => none
    | '0' :: 'x' :: c :: cs => digitsValue 16 (c :: cs) 0
    | c :: cs => digitsValue 10 (c :: cs) 0

/-- The register of a name (R99). -/
def parseReg (tok : List Char) : Option HostReg := hostRegs.find? fun r => regName r == tok

/-- A line up to its comment, which `;` starts (R99). -/
def dropComment (line : List Char) : List Char := line.takeWhile fun c => c != ';'

/-- The words of a line: blanks and commas separate them (log 17). -/
def wordsOf : List Char → List Char → List (List Char)
  | [], cur => if cur = [] then [] else [cur]
  | c :: cs, cur =>
    if c = ' ' ∨ c = ',' ∨ c = '\t' then
      (if cur = [] then wordsOf cs [] else cur :: wordsOf cs [])
    else wordsOf cs (cur ++ [c])

/-- The statement of the words of a line (R99, R101); `cmd`'s `n` defaults to 0. -/
def parseStatement : List (List Char) → Option Statement
  | [op] =>
    if op = "nop".toList then some .nop
    else if op = "parse".toList then some .parse
    else none
  | [op, x] =>
    if op = "rd".toList then (parseReg x).map .rd
    else if op = "cmd".toList then (parseValue x).map fun v => .cmd v 0
    else if op = "tick".toList then (parseValue x).map .tick
    else if op = "expand".toList then (parseValue x).map .expand
    else none
  | [op, x, y] => do
    let v ← parseValue y
    if op = "wr".toList then (parseReg x).map fun r => .wr r v
    else if op = "cmd".toList then (parseValue x).map fun o => .cmd o v
    else if op = "dim".toList then (parseValue x).map fun a => .dim a v
    else if op = "morph".toList then (parseValue x).map fun a => .morph a v
    else none
  | [op, x, y, z] => do
    let a ← parseValue x
    let b ← parseValue y
    let n ← parseValue z
    if op = "mix".toList then some (.mix a b n) else none
  | [op, k, x, y, z] => do
    let k ← parseValue k
    let a ← parseValue x
    let b ← parseValue y
    let sp ← parseValue z
    if op = "setpat".toList then some (.setpat k a b sp) else none
  | _ => none

/-- The transactions of one line: none for a blank line, `none` if it is refused (R99, R101). -/
def assembleLine (line : List Char) : Option (List Instr) :=
  match wordsOf (dropComment line) [] with
  | [] => some []
  | w :: ws => (parseStatement (w :: ws)).bind expandStatement

/-- The transactions of a program given as its lines, in order (R99). -/
def assemble (lines : List (List Char)) : Option (List Instr) := (lines.mapM assembleLine).map List.flatten

/-- The listing form of a transaction: `W off data` or `R off` (R102); none for an instruction that is no transaction. -/
def listing : Instr → List Char
  | .rd off => "R 0x".toList ++ hexDigits 2 off.toNat
  | .wr off data => "W 0x".toList ++ hexDigits 2 off.toNat ++ " 0x".toList ++ hexDigits 8 data.toNat
  | .nop | .setpat | .tick | .mix _ | .dim _ | .morph | .expand | .parse => []
  | .advSolid | .advPulse | .advCylon | .advAlternate | .advFlicker | .advLava => []

/-- The inputs that the Host sends to run a transaction (R90, R102). -/
def inputOf : Instr → Option Input
  | .rd off => some (.bus { off, size := 4, op := .read })
  | .wr off data => some (.bus { off, size := 4, op := .write data })
  | .nop | .setpat | .tick | .mix _ | .dim _ | .morph | .expand | .parse => none
  | .advSolid | .advPulse | .advCylon | .advAlternate | .advFlicker | .advLava => none

end Sys2Proof.Machine
end

