-- ==== Sys2Proof/Safety.lean ====
section
/-! DEFINITION. The invariant of GC-ANIM: what the spec says every reachable state satisfies (10_state R34, R39 to R41, R46
to R54, R63; 43_interfaces R230, R231; 00_scope R12), as predicates that a run can be checked by. -/

namespace Sys2Proof.Machine

/-- The kind a pattern state belongs to; none for ⊥ (R46). -/
def patternKind : PatternState → Option Kind
  | .bot => none
  | .solid => some .solid
  | .pulse _ => some .pulse
  | .cylon _ => some .cylon
  | .alternate _ => some .alternate
  | .flicker _ => some .flicker
  | .lava _ => some .lava

/-- PULSE: concrete colours, and a direction that the counter's bounds have turned (R48, R63, R154). -/
def pulseLegal (p : PulseState) : Bool :=
  isConcrete p.left && isConcrete p.right && (if p.up then p.count != 127 else p.count != 0)

/-- CYLON: concrete colours, `pos` in [0, P-1] (R49, R63, R157). -/
def cylonLegal (params : Params) (p : CylonState) : Bool :=
  isConcrete p.eye && isConcrete p.background && decide (p.pos.toNat < params.pixels)

/-- FLICKER: concrete colours, `w` in [0, spd], `st = 1` exactly when `w > spd div 2` (R51, R63, R161). -/
def flickerLegal (speed : Word) (p : FlickerState) : Bool :=
  isConcrete p.on && isConcrete p.off && decide (p.weight.toNat ≤ speed.toNat) &&
    (p.showOn == flickerShows speed p.weight)

/-- A blob's spot: `bpos` and `r` in [0, P-1], a concrete colour (R54, R63). -/
def spotLegal (params : Params) (p : Spot) : Bool :=
  decide (p.bpos.toNat < params.pixels) && decide (p.radius.toNat < params.pixels) && isConcrete p.color

/-- A blob between advances: `cd` at least 1, and a legal spot once it has spawned (R54). -/
def blobLegal (params : Params) (b : Blob) : Bool :=
  b.countdown != 0 && match b.life with
    | .unborn => true
    | .inactive p => spotLegal params p
    | .active p => spotLegal params p

/-- LAVA: P concrete buffer entries, NB legal blobs, a concrete background (R53, R54, R63, R175). -/
def lavaLegal (params : Params) (p : LavaState) : Bool :=
  isConcrete p.background && p.buf.length == params.pixels && p.buf.all isConcrete &&
    p.blobs.length == params.nblobs && p.blobs.all (blobLegal params)

/-- The fields of the pattern state are as R47 to R54 and R63 say. -/
def patternLegal (s : State) : Bool :=
  match s.ps with
  | .bot => true
  | .solid => true
  | .pulse p => pulseLegal p
  | .cylon p => cylonLegal s.params p
  | .alternate _ => true
  | .flicker p => flickerLegal s.actSpeed p
  | .lava p => lavaLegal s.params p

/-- A list of events is made of complete frames: `seen` Pixels since the last Latch, then concrete Pixels up to P, a
Latch, and so on (R230, R231). -/
def wholeFrames (pixels : Nat) : Nat → List Event → Bool
  | seen, [] => seen == 0
  | seen, .pixel c :: es => isConcrete c && decide (seen < pixels) && wholeFrames pixels (seen + 1) es
  | seen, .latch :: es => seen == pixels && wholeFrames pixels 0 es

/-- A draw whose answer lies in its request's range (R12, R125). -/
def drawLegal (d : Draw) : Bool := decide (requestLo d.request ≤ d.answer) && decide (d.answer ≤ requestHi d.request)

/-- The invariant. -/
structure Inv (s : State) : Prop where
  /-- Legal ERR values are 0 to 4 (R34). -/
  errLegal : (errOf s.status).toNat ≤ 4
  /-- INIT is 1 only after a TICK that dispatched, so RAN is 1 too (R34). -/
  initRan : initOf s.status = true → ranOf s.status = true
  /-- ACT_KIND always holds 0 to 5 (R39). -/
  kindLegal : s.actKind.toNat ≤ 5
  /-- ACT_COLOR_A always holds a valid colour (R40). -/
  colorALegal : isValid s.actColorA = true
  /-- ACT_COLOR_B always holds a valid colour (R41). -/
  colorBLegal : isValid s.actColorB = true
  /-- The tag of `ps`, once written, is ACT_KIND (R46). -/
  tagLegal : s.ps ≠ .bot → patternKind s.ps = decodeKind s.actKind
  /-- NEXT_DUE is not 0 only after a dispatch in the same activation, which wrote `ps` (R52). -/
  dueWritten : s.nextDue ≠ 0 → s.ps ≠ .bot
  /-- The fields of `ps` (R47 to R54, R63). -/
  patternFields : patternLegal s = true
  /-- Every event belongs to a complete frame of concrete colours (R230, R231). -/
  framesWhole : wholeFrames s.params.pixels 0 s.out = true
  /-- Every answer of the Random source lies in its range (R125). -/
  drawsLegal : s.random.asked.all drawLegal = true

/-- A step that met no bus error (R254): what a correct host program's steps satisfy. -/
def busClean (s : State) : Bool :=
  match s.reply with
  | .idle | .written | .data _ => true
  | .writeError | .readError _ => false

end Sys2Proof.Machine
end

