-- ==== Sys2Proof/Certificates/Slice0/Obligations.lean ====
section
/-! DEFINITION. The statements for the provers, and the relations they are written with. -/

namespace Sys2Proof.Machine

/-! ## What the statements are written with -/

/-- `expand(c)` as 40_color_math R124 states it, with the draws it makes: from the port `p` to the port `p'`. -/
def Expands (c : Color) (p : RandomPort) (c' : Color) (p' : RandomPort) : Prop :=
  (c ≠ 0x808080 ∧ c ≠ 0x818181 ∧ c' = c ∧ p' = p) ∨
  (c = 0x808080 ∧ ∃ r g b, r ≤ 127 ∧ g ≤ 127 ∧ b ≤ 127 ∧ c'.toNat = r * 65536 + g * 256 + b ∧
    p'.queued = p.queued.drop 3 ∧ p'.asked = p.asked ++ [⟨.draw7, r⟩, ⟨.draw7, g⟩, ⟨.draw7, b⟩]) ∨
  (c = 0x818181 ∧ ∃ r g b, r ≤ 1 ∧ g ≤ 1 ∧ b ≤ 1 ∧ c'.toNat = 127 * r * 65536 + 127 * g * 256 + 127 * b ∧
    p'.queued = p.queued.drop 3 ∧ p'.asked = p.asked ++ [⟨.drawBit, r⟩, ⟨.drawBit, g⟩, ⟨.drawBit, b⟩])

/-- A status word with the given ERR, and with RAN and INIT as in `old` (10_state R34). -/
def ErrStatus (err : Nat) (old new : BitVec 6) : Prop :=
  (errOf new).toNat = err ∧ ranOf new = ranOf old ∧ initOf new = initOf old

/-- A CMD word that 30_encoding R95 calls illegal, in numbers. -/
def IllegalWord (w : Word) : Prop :=
  w.toNat % 16 ≥ 8 ∨ w.toNat / 2048 ≠ 0 ∨ (w.toNat / 16 % 128 ≠ 0 ∧ w.toNat % 16 ≠ 3 ∧ w.toNat % 16 ≠ 4)

/-- The numeric value of the red, green and blue channels of a colour word (10_state R31). -/
def channelsOf (c : Color) : List Nat := [c.toNat / 65536, c.toNat / 256 % 256, c.toNat % 256]

/-- Concrete, in numbers: the three channels are at most 0x7F (R31). -/
def Concrete (c : Color) : Prop := ∀ x ∈ channelsOf c, x ≤ 127

/-- Each channel of `new` is `f` of the low seven bits of that channel of `a` and `b` (40_color_math R120). -/
def ChannelWise (f : Nat → Nat → Nat) (a b new : Color) : Prop :=
  channelsOf new = List.zipWith (fun x y => f (x % 128) (y % 128)) (channelsOf a) (channelsOf b)

/-- One frame (43_interfaces R231). -/
def oneFrame (cs : List Color) : List Event := cs.map .pixel ++ [.latch]

/-- The offsets that 60_exceptions R255 (d) names: the read-only registers. -/
def readOnlyOffsets : List Nat := [0x04, 0x18, 0x1C, 0x20, 0x24, 0x2C, 0x30, 0x3C, 0x40, 0x44]

/-- The transactions that raise BusError (60_exceptions R255). -/
def RaisesBusError (t : Transaction) : Prop :=
  t.size ≠ 4 ∨ t.off.toNat % 4 ≠ 0 ∨ 0x48 ≤ t.off.toNat ∨ (t.op ≠ .read ∧ t.off.toNat ∈ readOnlyOffsets)

/-- The six advance operations with their kind codes (30_encoding R98). -/
def advTable : List (Nat × Instr) :=
  [(0, .advSolid), (1, .advPulse), (2, .advCylon), (3, .advAlternate), (4, .advFlicker), (5, .advLava)]

/-- From the port `p` to the port `p'` by requests made one after the other: each answer lies in its request's range and is
the next ready answer if that one lies in the range (R125, R291; the ready answers are the model's, log 2). -/
def DrawsInOrder (p p' : RandomPort) : Prop :=
  ∃ ds : List Draw, p' = { queued := p.queued.drop ds.length, asked := p.asked ++ ds } ∧
    ∀ (j : Nat) (d : Draw), ds[j]? = some d →
      requestLo d.request ≤ d.answer ∧ d.answer ≤ requestHi d.request ∧
      ∀ v, p.queued[j]? = some v → requestLo d.request ≤ v → v ≤ requestHi d.request → d.answer = v

/-- `spawn` as 41_patterns R172 states it, for the blob colour source `a`: the blob `b'` is active, and its position, radius
and duration are the answers of the three requests made in that order, after which its colour is expanded from `a`. -/
def Spawns (params : Params) (a : Color) (p : RandomPort) (b' : Blob) (p' : RandomPort) : Prop :=
  ∃ spot : Spot, b'.life = .active spot ∧ spot.bpos.toNat < params.pixels ∧ spot.radius.toNat < params.pixels ∧
    1 ≤ b'.countdown.toNat ∧ b'.countdown.toNat ≤ params.lavaOnMax ∧
    Expands a { queued := p.queued.drop 3,
                asked := p.asked ++ [⟨.drawRange 0 (params.pixels - 1), spot.bpos.toNat⟩,
                  ⟨.drawRange 0 (params.pixels - 1), spot.radius.toNat⟩,
                  ⟨.drawRange 1 params.lavaOnMax, b'.countdown.toNat⟩] } spot.color p'

/-- `despawn` as R173 states it: the blob keeps its spot, is inactive and waits for a drawn time. -/
def Despawns (params : Params) (spot : Spot) (p : RandomPort) (b' : Blob) (p' : RandomPort) : Prop :=
  b'.life = .inactive spot ∧ 1 ≤ b'.countdown.toNat ∧ b'.countdown.toNat ≤ params.lavaOffMax ∧
    p' = { queued := p.queued.drop 1, asked := p.asked ++ [⟨.drawRange 1 params.lavaOffMax, b'.countdown.toNat⟩] }

/-- `blob_step` as R171 states it: a blob counts down; on expiry an inactive one spawns and an active one despawns. -/
def BlobSteps (params : Params) (a : Color) (b : Blob) (p : RandomPort) (b' : Blob) (p' : RandomPort) : Prop :=
  (b.countdown ≠ 1 → b'.life = b.life ∧ b'.countdown = b.countdown - 1 ∧ p' = p) ∧
  (b.countdown = 1 → ∀ spot, b.life = .active spot → Despawns params spot p b' p') ∧
  (b.countdown = 1 → (∀ spot, b.life ≠ .active spot) → Spawns params a p b' p')

/-- `blob_step` on every blob of a pool, in pool order, each from the port the one before it left (R170, R171). -/
def PoolSteps (params : Params) (a : Color) : List Blob → RandomPort → List Blob → RandomPort → Prop
  | [], p, bs', p' => bs' = [] ∧ p' = p
  | b :: bs, p, bs', p' => ∃ (b' : Blob) (rest : List Blob) (q : RandomPort), bs' = b' :: rest ∧
    BlobSteps params a b p b' q ∧ PoolSteps params a bs q rest p'

/-- Pixel `i` of colour `c` after the morphs toward the active blobs that cover it, in pool order (R170, R174). -/
def morphedByBlobs (pixels : Nat) (blobs : List Blob) (i : Nat) (c : Color) : Color :=
  blobs.foldl (fun acc b => match b.life with
    | .active spot => if covers pixels spot i then morph acc spot.color else acc
    | .inactive _ => acc
    | .unborn => acc) c

/-- `k` advances of one operation, the first with `initial` as it stands and every later one with `initial = 0`. -/
def advances (i : Instr) : Nat → State → Option State
  | 0, s => some s
  | k + 1, s => match exec i s with
    | .next t => advances i k { t with advInitial := false }
    | .fault _ => none
    | .refused _ => none

/-- The used bits of the read/write registers, as a mask of the word written (10_state R30). -/
def usedBits : HostReg → Word
  | .cfgKind => 0x00000007
  | .cfgColorA | .cfgColorB | .opa | .opb => 0x00FFFFFF
  | .cfgSpeed | .now => 0xFFFFFFFF
  | .cmd | .status | .actKind | .actColorA | .actColorB | .actSpeed | .nextDue | .lastDelay | .res | .pixels
  | .nblobs => 0

end Sys2Proof.Machine

open Sys2Proof Sys2Proof.Machine

/-! ## Encoding -/

/-- Every well-formed instruction is what its own word decodes to. -/
def Obligations.DecodeOfEncodeIsInstruction : Prop :=
  ∀ i : Instr, i.wf = true → decode (encode i) = .ok i

/-- A word that decodes is the word of the instruction it decodes to, which is well formed. -/
def Obligations.EncodeOfDecodeIsWord : Prop :=
  ∀ (e : Encoded) (i : Instr), decode e = .ok i → i.wf = true ∧ encode i = e

/-- Words written out from the spec's encodings (V-ENC of 95_test_vectors; R102's example) decode to their instructions. -/
def Obligations.SampleWordsDecode : Prop :=
  decode (.cmd 0x00000403) = .ok (.mix 64) ∧ decode (.cmd 0x000007F4) = .ok (.dim 127) ∧
  decode (.cmd 0x00000002) = .ok .tick ∧ decode (.cmd 0x00000006) = .ok .expand ∧
  decode (.bus 0x11400000064) = .ok (.wr 0x14 100) ∧ decode (.bus 0x00400000000) = .ok (.rd 0x04) ∧
  decode (.kind 5) = .ok .advLava ∧ decode (.cmd 0x00000803) = .error .reservedBits

/-- R95: an illegal word performs nothing but STATUS.ERR = 2 (whatever the bus answers), and every legal word is the word of
exactly one command. -/
def Obligations.IllegalWordsOnlySetErr : Prop :=
  ∀ (w : Word) (s : State),
    (IllegalWord w → ∃ st r, ErrStatus 2 s.status st ∧
      exec (.wr 0x00 w) s = .next { s with status := st, reply := r }) ∧
    (¬ IllegalWord w → ∃! c : Command, c.word = w)

/-- The opcode table's CMD rows are disjoint, and a word belongs to one exactly when it decodes to a command. -/
def Obligations.OpcodeRowsAreDisjoint : Prop :=
  ∀ w : Word, ((∃ c, decodeCmd w = .ok c) → cmdRowsOf w = 1) ∧ ((∀ c, decodeCmd w ≠ .ok c) → cmdRowsOf w = 0)

/-! ## The bus -/

/-- A read of each of the 18 registers returns its value and changes nothing of the Block (R30, R75, R76; the answer on the
bus is the model's field `reply`, log 4). -/
def Obligations.ReadsReturnRegisters : Prop :=
  ∀ s : State, ∀ p ∈ ([ (0x00, 0), (0x04, s.status.toNat), (0x08, s.cfgKind.toNat), (0x0C, s.cfgColorA.toNat),
      (0x10, s.cfgColorB.toNat), (0x14, s.cfgSpeed.toNat), (0x18, s.actKind.toNat), (0x1C, s.actColorA.toNat),
      (0x20, s.actColorB.toNat), (0x24, s.actSpeed.toNat), (0x28, s.now.toNat), (0x2C, s.nextDue.toNat),
      (0x30, s.lastDelay.toNat), (0x34, s.opa.toNat), (0x38, s.opb.toNat), (0x3C, s.res.toNat),
      (0x40, s.params.pixels), (0x44, s.params.nblobs) ] : List (Offset × Nat)),
    ∃ w : Word, w.toNat = p.2 ∧ exec (.rd p.1) s = .next { s with reply := .data w }

/-- A write to a read/write register stores its used bits, and every other register reads as before; nothing else of the
Block changes (R30, R76; the answer on the bus is the model's field `reply`, log 4). -/
def Obligations.WritesStoreUsedBits : Prop :=
  ∀ (r : HostReg) (v : Word) (s : State), accessOf r = .readWrite →
    ∃ t, exec (.wr (offsetOf r) v) s = .next t ∧
      (∀ r', readHostReg r' t = if r' = r then v &&& usedBits r else readHostReg r' s) ∧
      t.ps = s.ps ∧ t.params = s.params ∧ t.random = s.random ∧ t.out = s.out ∧ t.pending = s.pending ∧
      t.sinkReady = s.sinkReady ∧ t.reply = .written ∧ t.busErrors = s.busErrors ∧
      t.advInitial = s.advInitial ∧ t.advDelay = s.advDelay

/-- A write of a command's word to CMD performs exactly that command and is accepted; it stops only where the command
does (R33, R96; that the write is accepted is the model's field `reply`, log 4). -/
def Obligations.CmdWriteRunsCommand : Prop :=
  ∀ (c : Command) (s : State),
    (∀ t, exec c.toInstr s = .next t → exec (.wr 0x00 c.word) s = .next { t with reply := .written }) ∧
    (∀ f, exec c.toInstr s = .fault f → exec (.wr 0x00 c.word) s = .fault f)

/-- R255: BusError is raised by exactly the transactions (a) to (d); a read of CMD returns 0, and a write to a read/write
register is no error and drops its reserved bits. That a BusError is seen as an error answer after which the machine goes
on, and that transactions wait in `pending`, are the model's (logs 3 and 4). -/
def Obligations.BusErrorRaisedExactly : Prop :=
  (∀ (s t : State) (x : Transaction) (rest : List Input), s.pending = .bus x :: rest → s.sinkReady = true →
    step s = .next t → (busClean t = false ↔ RaisesBusError x)) ∧
  (∀ s : State, exec (.rd 0x00) s = .next { s with reply := .data 0 }) ∧
  (∀ (r : HostReg) (v : Word) (s : State), accessOf r = .readWrite →
    ∃ t, exec (.wr (offsetOf r) v) s = .next t ∧ busClean t = true ∧ readHostReg r t = v &&& usedBits r)

/-- A transaction that raises BusError ends unperformed: only the bus's answer changes (R254; the error answer and the
counter of the free data word are the model's, logs 4 and 5). -/
def Obligations.BusErrorPerformsNothing : Prop :=
  ∀ (s : State) (x : Transaction) (rest : List Input), s.pending = .bus x :: rest → RaisesBusError x →
    (x.op = .read → ∃ w, step s =
      .next { s with pending := rest, reply := .readError w, busErrors := s.busErrors + 1 }) ∧
    (x.op ≠ .read → step s = .next { s with pending := rest, reply := .writeError })

/-- A Host access at BASE + off becomes the Block's next transaction at off; an access outside the 256 bytes of the window is
not the Block's (R70; log 15). -/
def Obligations.WindowReachesOffsets : Prop :=
  ∀ (s : State) (size : Nat) (op : BusOp),
    (∀ off : Offset, submit (s.params.base + off.toNat) size op s =
      some { s with pending := s.pending ++ [.bus { off, size, op }] }) ∧
    (∀ addr, addr < s.params.base ∨ s.params.base + 256 ≤ addr → submit addr size op s = none)

/-! ## One step -/

/-- A word transaction at the head runs the instruction its 41 bits decode to; an event-free or accepted one completes,
and one whose events the sink does not accept leaves the state as it was (R7, R80, R86; logs 3 and 7). -/
def Obligations.StepRunsDecodedInstruction : Prop :=
  ∀ (s : State) (x : Transaction) (rest : List Input) (i : Instr),
    s.pending = .bus x :: rest → x.size = 4 → decode (.bus (transactionWord x)) = .ok i →
    (s.sinkReady = true → step s = exec i { s with pending := rest }) ∧
    (∀ t, exec i { s with pending := rest } = .next t → t.out = s.out → step s = .next t) ∧
    (∀ t, exec i { s with pending := rest } = .next t → t.out.length ≠ s.out.length → s.sinkReady = false →
      step s = .next s)

/-- The reset input puts every register at its reset value and `ps` at ⊥, and touches neither the Random source, the sink and
its events, the coming transactions nor the count of failed reads (R280 to R282; what is outside the Block is the model's
reading, log 13). -/
def Obligations.ResetInputClearsBlock : Prop :=
  ∀ (s : State) (rest : List Input), s.pending = .reset :: rest →
    ∃ t, step s = .next t ∧ t.ps = .bot ∧ t.params = s.params ∧ t.random = s.random ∧ t.out = s.out ∧
      t.pending = rest ∧ t.sinkReady = s.sinkReady ∧ t.busErrors = s.busErrors ∧
      ∀ r : HostReg, readHostReg r t =
        if r = .pixels then BitVec.ofNat 32 s.params.pixels
        else if r = .nblobs then BitVec.ofNat 32 s.params.nblobs else 0

/-- With nothing pending the Block waits (R264). A placed table word is what the next step runs: a transaction itself, a
command through a write to CMD, a kind through an initial TICK (the model's placing, log 12). -/
def Obligations.PlacedWordRunsNext : Prop :=
  (∀ s : State, s.pending = [] → step s = .next s) ∧
  ∀ (s : State) (w : Nat),
    (∀ i, decodeTableWord 48 w = some i → step (s.withFetchWord 48 w) = exec i { s with sinkReady := true }) ∧
    (∀ i, decodeTableWord 32 w = some i →
      step (s.withFetchWord 32 w) = exec (.wr 0x00 (BitVec.ofNat 32 w)) { s with sinkReady := true }) ∧
    (∀ i, decodeTableWord 8 w = some i →
      step (s.withFetchWord 8 w) =
        exec (.wr 0x00 2) { s with sinkReady := true, actKind := BitVec.ofNat 3 w, nextDue := 0 })

/-! ## Commands -/

/-- NOP ends with ERR = 0 and PARSE with ERR = 1; neither changes anything else (R200, R239). -/
def Obligations.NopAndParseOnlySetErr : Prop :=
  ∀ s : State,
    (∃ st, ErrStatus 0 s.status st ∧ exec .nop s = .next { s with status := st }) ∧
    (∃ st, ErrStatus 1 s.status st ∧ exec .parse s = .next { s with status := st })

/-- MIX blends the low seven bits of each channel of OPA and OPB at ratio N/127, rounded down, into RES, and changes nothing
but RES and STATUS.ERR (R121, R127). -/
def Obligations.MixBlendsChannels : Prop :=
  ∀ (n : Ratio) (s : State), ∃ c st,
    ChannelWise (fun x y => (x * (127 - n.toNat) + y * n.toNat) / 127) s.opa s.opb c ∧ ErrStatus 0 s.status st ∧
    exec (.mix n) s = .next { s with res := c, status := st }

/-- DIM scales the low seven bits of each channel of OPA by N/127, rounded down, whatever OPB holds (R122, R128). -/
def Obligations.DimScalesChannels : Prop :=
  ∀ (n : Ratio) (s : State), ∃ c st,
    ChannelWise (fun x _ => x * n.toNat / 127) s.opa s.opa c ∧ ErrStatus 0 s.status st ∧
    exec (.dim n) s = .next { s with res := c, status := st }

/-- MORPH moves the low seven bits of each channel of OPA one unit toward those of OPB (R123, R129). -/
def Obligations.MorphStepsChannels : Prop :=
  ∀ s : State, ∃ c st,
    ChannelWise (fun x y => if x < y then x + 1 else if x > y then x - 1 else x) s.opa s.opb c ∧
    ErrStatus 0 s.status st ∧ exec .morph s = .next { s with res := c, status := st }

/-- EXPAND puts the expansion of OPA into RES, making the draws that R124 names and no others (R124, R130;
the queue of ready answers is the model's, log 2). -/
def Obligations.ExpandDrawsSentinels : Prop :=
  ∀ s : State, ∃ c p st, Expands s.opa s.random c p ∧ ErrStatus 0 s.status st ∧
    exec .expand s = .next { s with res := c, random := p, status := st }

/-- SETPAT applies the staged configuration if its kind is 0 to 5 and both colours are concrete or sentinels; else it only
sets ERR, to 3 for the kind before 4 for a colour (R201, R253). -/
def Obligations.SetpatAppliesOrRefuses : Prop :=
  ∀ s : State,
    let valid := fun c : Color => Concrete c ∨ c = 0x808080 ∨ c = 0x818181
    (s.cfgKind.toNat > 5 → ∃ st, ErrStatus 3 s.status st ∧ exec .setpat s = .next { s with status := st }) ∧
    (s.cfgKind.toNat ≤ 5 → ¬ (valid s.cfgColorA ∧ valid s.cfgColorB) →
      ∃ st, ErrStatus 4 s.status st ∧ exec .setpat s = .next { s with status := st }) ∧
    (s.cfgKind.toNat ≤ 5 → valid s.cfgColorA → valid s.cfgColorB →
      ∃ st, ErrStatus 0 s.status st ∧ exec .setpat s =
        .next { s with
          actKind := s.cfgKind, actColorA := s.cfgColorA, actColorB := s.cfgColorB, actSpeed := s.cfgSpeed,
          nextDue := 0, ps := .bot, status := st })

/-- R252: a command that ends with ERR ≠ 0 has changed nothing except STATUS.ERR; MIX, DIM, MORPH and EXPAND never fail, and
an advance does not touch STATUS. -/
def Obligations.FailuresArePrecise : Prop :=
  (∀ (w : Word) (s t : State), exec (.wr 0x00 w) s = .next t → errOf t.status ≠ 0 →
    t = { s with status := t.status, reply := t.reply } ∧ ranOf t.status = ranOf s.status ∧
      initOf t.status = initOf s.status) ∧
  (∀ (i : Instr) (s : State), (∃ n, i = .mix n ∨ i = .dim n) ∨ i = .morph ∨ i = .expand →
    ∃ t, exec i s = .next t ∧ errOf t.status = 0) ∧
  (∀ p ∈ advTable, ∀ s t : State, exec p.2 s = .next t → t.status = s.status)

/-- R253: ILLEGAL_CMD comes first, whatever the CFG registers hold; then BAD_KIND, then BAD_COLOR. -/
def Obligations.ErrorsHavePriority : Prop :=
  ∀ (w : Word) (s : State),
    (IllegalWord w → ∃ t, exec (.wr 0x00 w) s = .next t ∧ (errOf t.status).toNat = 2) ∧
    (s.cfgKind.toNat > 5 → ∃ t, exec (.wr 0x00 1) s = .next t ∧ (errOf t.status).toNat = 3) ∧
    (s.cfgKind.toNat ≤ 5 →
      (∃ c ∈ [s.cfgColorA, s.cfgColorB], ¬ Concrete c ∧ c ≠ 0x808080 ∧ c ≠ 0x818181) →
      ∃ t, exec (.wr 0x00 1) s = .next t ∧ (errOf t.status).toNat = 4) ∧
    IllegalWord 0x00000011

/-! ## The scheduler -/

/-- R204: a TICK that is not due writes STATUS = 0 and changes nothing else; a second one changes nothing at all. -/
def Obligations.TickNotDueChangesOnlyStatus : Prop :=
  ∀ s : State, s.nextDue ≠ 0 → s.now.toNat < s.nextDue.toNat →
    exec .tick s = .next { s with status := 0 } ∧
    exec .tick { s with status := 0 } = .next { s with status := 0 }

/-- R203: a due TICK runs exactly the advance that ACT_KIND selects, with `initial = (NEXT_DUE = 0)`, and adds the delay it
returns to the due time, modulo 2^32 (R202); kind codes 6 and 7 fault (R98). `initial` and the returned delay are the
model's fields `advInitial` and `advDelay` (log 8). -/
def Obligations.TickRunsSelectedAdvance : Prop :=
  ∀ (s : State) (due : Word),
    (s.nextDue = 0 ∧ due = s.now) ∨ (s.nextDue ≠ 0 ∧ due = s.nextDue ∧ s.nextDue.toNat ≤ s.now.toNat) →
    (∀ p ∈ advTable, s.actKind.toNat = p.1 →
      (∀ t, exec p.2 { s with nextDue := due, advInitial := s.nextDue == 0 } = .next t →
        ∃ st, (errOf st).toNat = 0 ∧ ranOf st = true ∧ initOf st = (s.nextDue == 0) ∧
          exec .tick s =
            .next { t with
              nextDue := BitVec.ofNat 32 (due.toNat + t.advDelay.toNat), lastDelay := t.advDelay, status := st }) ∧
      (∀ f, exec p.2 { s with nextDue := due, advInitial := s.nextDue == 0 } = .fault f →
        exec .tick s = .fault f)) ∧
    (s.actKind.toNat > 5 → exec .tick s = .fault .unreachableKind)

/-- A TICK that finds NEXT_DUE = 0 always dispatches, whatever NOW and `ps` hold: it emits one frame, writes the pattern
state of its kind anew and leaves NEXT_DUE at NOW plus the delay (R202, R205, R283). -/
def Obligations.InitialTickAlwaysDispatches : Prop :=
  ∀ s : State, s.nextDue = 0 → s.actKind.toNat ≤ 5 →
    ∃ t cs, exec .tick s = .next t ∧ (errOf t.status).toNat = 0 ∧ ranOf t.status = true ∧ initOf t.status = true ∧
      t.nextDue = s.now + t.lastDelay ∧ patternKind t.ps = decodeKind s.actKind ∧
      cs.length = s.params.pixels ∧ t.out = s.out ++ oneFrame cs ∧
      ∀ ps', exec .tick { s with ps := ps' } = .next t

/-! ## The pattern state machines

`initial` and the returned delay are the model's fields `advInitial` and `advDelay` (log 8); the queue of the Random
source's ready answers is the model's (log 2). -/

/-- ADV.SOLID: one frame of P times the expansion of A, delay `spd` (R152); an initial advance makes SOLID the tag of `ps`
(log 9). -/
def Obligations.SolidDrawsOneColour : Prop :=
  ∀ s : State, ∃ c p, Expands s.actColorA s.random c p ∧
    exec .advSolid s = .next { s with
      ps := if s.advInitial then .solid else s.ps, random := p, advDelay := s.actSpeed,
      out := s.out ++ oneFrame (List.replicate s.params.pixels c) }

/-- The first PULSE advance: both colours expanded, the left one shown (masked), counter 1, counting up (R153). -/
def Obligations.PulseStartsFromLeft : Prop :=
  ∀ s : State, s.advInitial = true → ∃ l p r p' c,
    Expands s.actColorA s.random l p ∧ Expands s.actColorB p r p' ∧ ChannelWise (fun x _ => x) l l c ∧
    exec .advPulse s = .next { s with
      ps := .pulse { left := l, right := r, up := true, count := 1 }, random := p',
      advDelay := BitVec.ofNat 32 (s.actSpeed.toNat / 127),
      out := s.out ++ oneFrame (List.replicate s.params.pixels c) }

/-- A later PULSE advance: the blend at counter/127, then one step; at 127 the left colour is re-expanded and the direction
turns, at 0 the right one (R153). -/
def Obligations.PulseStepsAndTurns : Prop :=
  ∀ (s : State) (q : PulseState), s.advInitial = false → s.ps = .pulse q →
    ∃ c, ChannelWise (fun x y => (x * (127 - q.count.toNat) + y * q.count.toNat) / 127) q.left q.right c ∧
      let after := fun (n : PulseState) (p : RandomPort) => ({ s with
        ps := .pulse n, random := p, advDelay := BitVec.ofNat 32 (s.actSpeed.toNat / 127),
        out := s.out ++ oneFrame (List.replicate s.params.pixels c) } : State)
      (q.up = true → q.count.toNat < 126 → ∃ k : BitVec 7, k.toNat = q.count.toNat + 1 ∧
        exec .advPulse s = .next (after { q with count := k } s.random)) ∧
      (q.up = true → q.count.toNat = 126 → ∃ l p, Expands s.actColorA s.random l p ∧
        exec .advPulse s = .next (after { q with left := l, up := false, count := 127 } p)) ∧
      (q.up = false → 1 < q.count.toNat → ∃ k : BitVec 7, k.toNat + 1 = q.count.toNat ∧
        exec .advPulse s = .next (after { q with count := k } s.random)) ∧
      (q.up = false → q.count.toNat = 1 → ∃ r p, Expands s.actColorB s.random r p ∧
        exec .advPulse s = .next (after { q with right := r, up := true, count := 0 } p))

/-- R154: over any run of advances of one activation the counter goes up to 127 and down to 0 with period 254, and the
direction turns exactly at the two bounds. -/
def Obligations.PulseCounterIsPeriodic : Prop :=
  ∀ (k : Nat) (s : State), s.advInitial = true →
    ∃ t q, advances .advPulse (k + 1) s = some t ∧ t.ps = .pulse q ∧
      q.count.toNat = (if (k + 1) % 254 ≤ 127 then (k + 1) % 254 else 254 - (k + 1) % 254) ∧
      q.up = decide ((k + 1) % 254 < 127)

/-- The first CYLON advance: the eye at pixel 0, dimmed pixel 1, background beyond. With P ≥ 2 it is no bounce; with P = 1
it is one: the colours are expanded again and the delay is tripled (R155, R156). -/
def Obligations.CylonStartsAtZero : Prop :=
  ∀ s : State, s.advInitial = true →
    ∃ e p g p' d, Expands s.actColorA s.random e p ∧ Expands s.actColorB p g p' ∧
      ChannelWise (fun x _ => x * s.params.cylonEdgeN.toNat / 127) e e d ∧
      (2 ≤ s.params.pixels → exec .advCylon s = .next { s with
        ps := .cylon { down := false, pos := 1, eye := e, background := g }, random := p',
        advDelay := BitVec.ofNat 32 (s.actSpeed.toNat / (2 * s.params.pixels)),
        out := s.out ++ oneFrame (e :: d :: List.replicate (s.params.pixels - 2) g) }) ∧
      (s.params.pixels = 1 → ∃ e2 p2 g2 p3, Expands s.actColorA p' e2 p2 ∧ Expands s.actColorB p2 g2 p3 ∧
        exec .advCylon s = .next { s with
          ps := .cylon { down := true, pos := 0, eye := e2, background := g2 }, random := p3,
          advDelay := BitVec.ofNat 32 (3 * (s.actSpeed.toNat / 2)), out := s.out ++ oneFrame [e] })

/-- A later CYLON advance from a position on the strip: the frame of R156; inside the strip one step and delay `spd div 2P`;
at an end the direction turns, both colours are re-expanded, the eye goes one back (or stays when P = 1) and the delay is
tripled in 32 bits (R155). -/
def Obligations.CylonStepsAndBounces : Prop :=
  ∀ (s : State) (q : CylonState), s.advInitial = false → s.ps = .cylon q → q.pos.toNat < s.params.pixels →
    ∃ d, ChannelWise (fun x _ => x * s.params.cylonEdgeN.toNat / 127) q.eye q.eye d ∧
      let frame := (List.range s.params.pixels).map fun i =>
        if i = q.pos.toNat then q.eye
        else if i + 1 = q.pos.toNat ∨ i = q.pos.toNat + 1 then d else q.background
      let base := s.actSpeed.toNat / (2 * s.params.pixels)
      let bounce := (q.down = true ∧ q.pos.toNat = 0) ∨ (q.down = false ∧ q.pos.toNat + 1 = s.params.pixels)
      (¬ bounce → ∃ k : BitVec 16,
        (if q.down then k.toNat + 1 = q.pos.toNat else k.toNat = q.pos.toNat + 1) ∧
        exec .advCylon s = .next { s with
          ps := .cylon { q with pos := k }, advDelay := BitVec.ofNat 32 base, out := s.out ++ oneFrame frame }) ∧
      (bounce → ∃ (k : BitVec 16) (e : Color) (p : RandomPort) (g : Color) (p' : RandomPort),
        Expands s.actColorA s.random e p ∧ Expands s.actColorB p g p' ∧
        (if s.params.pixels = 1 then k.toNat = 0
          else if q.down then k.toNat = 1 else k.toNat + 1 = q.pos.toNat) ∧
        exec .advCylon s = .next { s with
          ps := .cylon { down := !q.down, pos := k, eye := e, background := g }, random := p',
          advDelay := BitVec.ofNat 32 (3 * base), out := s.out ++ oneFrame frame })

/-- R157: for P ≥ 2 the eye's position after k + 1 advances of one activation runs 0, 1, …, P-1, P-2, …, 1 with period
2(P-1); the delay of advance k is tripled exactly when it draws position P-1, or position 0 after the first pass. -/
def Obligations.CylonPositionIsPeriodic : Prop :=
  ∀ (k : Nat) (s : State), s.advInitial = true → 2 ≤ s.params.pixels →
    let P := s.params.pixels
    let at' := fun j => if j % (2 * (P - 1)) < P then j % (2 * (P - 1)) else 2 * (P - 1) - j % (2 * (P - 1))
    ∃ t q, advances .advCylon (k + 1) s = some t ∧ t.ps = .cylon q ∧ q.pos.toNat = at' (k + 1) ∧
      t.advDelay = BitVec.ofNat 32
        (if at' k = P - 1 ∨ (at' k = 0 ∧ 0 < k) then 3 * (s.actSpeed.toNat / (2 * P)) else s.actSpeed.toNat / (2 * P))

/-- ADV.ALTERNATE: A and B expanded once, A on the even pixels when the phase is 0 (as it is when initial) and on the odd ones
when it is 1; the phase flips; delay `spd` (R159). -/
def Obligations.AlternateSwapsParity : Prop :=
  ∀ (s : State) (phase : Bool),
    (s.advInitial = true ∧ phase = false) ∨ (s.advInitial = false ∧ s.ps = .alternate phase) →
    ∃ a p b p', Expands s.actColorA s.random a p ∧ Expands s.actColorB p b p' ∧
      exec .advAlternate s = .next { s with
        ps := .alternate (!phase), random := p', advDelay := s.actSpeed,
        out := s.out ++ oneFrame ((List.range s.params.pixels).map fun i =>
          if phase then (if i % 2 = 1 then a else b) else (if i % 2 = 1 then b else a)) }

/-- The first FLICKER advance: both colours expanded, the off colour shown, the weight at half, delay 10 (R160). -/
def Obligations.FlickerStartsOff : Prop :=
  ∀ s : State, s.advInitial = true → ∃ a p b p' w,
    Expands s.actColorA s.random a p ∧ Expands s.actColorB p b p' ∧ w = BitVec.ofNat 32 (s.actSpeed.toNat / 2) ∧
    exec .advFlicker s = .next { s with
      ps := .flicker { on := a, off := b, showOn := false, weight := w }, random := p', advDelay := 10,
      out := s.out ++ oneFrame (List.replicate s.params.pixels b) }

/-- A later FLICKER advance from a weight within [0, spd]: one draw of 0 to 2, the walk with its clamps and re-expansions,
and a frame exactly when the shown colour flips (R160, R161). -/
def Obligations.FlickerWalksAndFlips : Prop :=
  ∀ (s : State) (q : FlickerState), s.advInitial = false → s.ps = .flicker q → q.weight.toNat ≤ s.actSpeed.toNat →
    ∃ (d : Nat) (p : RandomPort) (n : FlickerState), d ≤ 2 ∧
      (let r : RandomPort :=
        { queued := s.random.queued.drop 1, asked := s.random.asked ++ [⟨.drawRange 0 2, d⟩] }
       (q.weight.toNat + d = 0 → Expands s.actColorA r n.on p ∧ n.off = q.off ∧ n.weight.toNat = 0) ∧
       (q.weight.toNat + d = s.actSpeed.toNat + 2 →
         Expands s.actColorB r n.off p ∧ n.on = q.on ∧ n.weight = s.actSpeed) ∧
       (1 ≤ q.weight.toNat + d → q.weight.toNat + d ≤ s.actSpeed.toNat + 1 →
         n.on = q.on ∧ n.off = q.off ∧ p = r ∧ n.weight.toNat + 1 = q.weight.toNat + d)) ∧
      n.showOn = decide (n.weight.toNat > s.actSpeed.toNat / 2) ∧
      exec .advFlicker s = .next { s with
        ps := .flicker n, random := p, advDelay := 10,
        out := s.out ++ if n.showOn = q.showOn then []
          else oneFrame (List.replicate s.params.pixels (if n.showOn then n.on else n.off)) }

/-- The first LAVA advance: the background expanded from B, NB countdown draws of 1 to LAVA_OFF_MAX for inactive blobs, then
`blob_step` on each in pool order; each pixel is black morphed toward the background and then toward the active blobs that
cover it; one frame, delay 10 (R170 to R172). -/
def Obligations.LavaStartsInactive : Prop :=
  ∀ s : State, s.advInitial = true → ∃ (g : Color) (p : RandomPort) (cds : List Nat) (q : LavaState) (r : RandomPort),
    Expands s.actColorB s.random g p ∧ cds.length = s.params.nblobs ∧
    (∀ c ∈ cds, 1 ≤ c ∧ c ≤ s.params.lavaOffMax) ∧ q.background = g ∧
    PoolSteps s.params s.actColorA (cds.map fun c => { countdown := BitVec.ofNat 32 c, life := .unborn })
      { queued := p.queued.drop s.params.nblobs,
        asked := p.asked ++ cds.map fun c => ⟨.drawRange 1 s.params.lavaOffMax, c⟩ } q.blobs r ∧
    q.buf.length = s.params.pixels ∧
    (∀ (i : Nat) (c : Color), q.buf[i]? = some c →
      c = morphedByBlobs s.params.pixels q.blobs i (morph 0x000000 g)) ∧
    exec .advLava s = .next { s with
      ps := .lava q, random := r, advDelay := 10, out := s.out ++ oneFrame q.buf }

/-- A later LAVA advance, from a buffer of P entries and a pool of NB blobs: `blob_step` on each blob in pool order, a spawn
drawing position, radius, duration and the colour of A in that order; every pixel is morphed toward the background and then,
in pool order, toward each active blob that covers it; one frame, delay 10 (R170 to R174). -/
def Obligations.LavaStepsBlobsThenStrip : Prop :=
  ∀ (s : State) (q : LavaState), s.advInitial = false → s.ps = .lava q → q.buf.length = s.params.pixels →
    q.blobs.length = s.params.nblobs →
    ∃ (n : LavaState) (r : RandomPort), n.background = q.background ∧
      PoolSteps s.params s.actColorA q.blobs s.random n.blobs r ∧ n.buf.length = s.params.pixels ∧
      (∀ (i : Nat) (c c' : Color), q.buf[i]? = some c → n.buf[i]? = some c' →
        c' = morphedByBlobs s.params.pixels n.blobs i (morph c q.background)) ∧
      exec .advLava s = .next { s with
        ps := .lava n, random := r, advDelay := 10, out := s.out ++ oneFrame n.buf }

/-- R174: an index is covered exactly when some k in [-r, r] gives it by the true modulo, that is, when its distance to the
blob's position around the strip, either way, is at most the radius. -/
def Obligations.CoverIsCircularDistance : Prop :=
  ∀ (pixels : Nat) (spot : Spot) (i : Nat), 1 ≤ pixels → i < pixels → spot.bpos.toNat < pixels →
    (covers pixels spot i = true ↔
      ∃ k : Int, -(spot.radius.toNat : Int) ≤ k ∧ k ≤ (spot.radius.toNat : Int) ∧
        ((spot.bpos.toNat : Int) + k) % (pixels : Int) = (i : Int)) ∧
    (covers pixels spot i = true ↔
      (i + pixels - spot.bpos.toNat) % pixels ≤ spot.radius.toNat ∨
      (spot.bpos.toNat + pixels - i) % pixels ≤ spot.radius.toNat)

/-- A LAVA advance makes at most 6·NB draws, and an initial one at most 3 + 7·NB (R294, 90_conflicts C9). -/
def Obligations.LavaDrawsAreBounded : Prop :=
  ∀ s t : State, exec .advLava s = .next t →
    s.random.asked.length ≤ t.random.asked.length ∧
    t.random.asked.length ≤ s.random.asked.length +
      (if s.advInitial then 3 + 7 * s.params.nblobs else 6 * s.params.nblobs)

/-- The stagnation of a pixel between the background and one blob (R175), for either order of the two: per channel, the
background step and the blob step together leave a value strictly between them where it is, move one at the background by
one, keep one at the blob's value, and move one outside them by two toward them, or by one from just beyond the blob's. -/
def Obligations.LavaPixelStagnates : Prop :=
  ∀ c bg col : Color, Concrete c → Concrete bg → Concrete col →
    ∀ (j x t0 t1 x' : Nat), (channelsOf c)[j]? = some x → (channelsOf bg)[j]? = some t0 →
      (channelsOf col)[j]? = some t1 → (channelsOf (morph (morph c bg) col))[j]? = some x' →
      (t0 < x → x < t1 → x' = x) ∧ (t1 < x → x < t0 → x' = x) ∧
      (x = t0 → t0 < t1 → x' = t0 + 1) ∧ (x = t0 → t1 < t0 → x' + 1 = t0) ∧ (x = t1 → t0 ≠ t1 → x' = t1) ∧
      (t0 < t1 → x < t0 → x' = x + 2) ∧ (t0 < t1 → t1 + 1 < x → x' + 2 = x) ∧
      (t1 < t0 → t0 < x → x' + 2 = x) ∧ (t1 < t0 → x + 1 < t1 → x' = x + 2) ∧
      (t0 < t1 → x = t1 + 1 → x' = t1) ∧ (t1 < t0 → x + 1 = t1 → x' = t1) ∧
      (x = t0 → t0 = t1 → x' = x)

/-- R150: an advance writes no host register. Of what surrounds it, it takes only draws, in order, and emits nothing or one
frame; the waiting inputs, the bus and the sink's readiness are as before (the draws' port is the model's, log 2). -/
def Obligations.AdvanceWritesNoHostRegister : Prop :=
  ∀ p ∈ advTable, ∀ s t : State, exec p.2 s = .next t →
    (∀ r, readHostReg r t = readHostReg r s) ∧ t.params = s.params ∧ t.pending = s.pending ∧ t.reply = s.reply ∧
    t.advInitial = s.advInitial ∧ t.sinkReady = s.sinkReady ∧ t.busErrors = s.busErrors ∧
    DrawsInOrder s.random t.random ∧
    (t.out = s.out ∨ ∃ cs : List Color, cs.length = s.params.pixels ∧ t.out = s.out ++ oneFrame cs)

/-- R231: a step, and an advance, emits nothing or exactly one complete frame, P Pixels in the order of their indices and
one Latch, after what was emitted before. -/
def Obligations.StepEmitsAtMostOneFrame : Prop :=
  ∀ s t : State, (step s = .next t ∨ ∃ p ∈ advTable, exec p.2 s = .next t) →
    t.out = s.out ∨ ∃ cs : List Color, cs.length = s.params.pixels ∧ t.out = s.out ++ oneFrame cs

/-- Whatever the step does, its requests to the Random source are made one after the other: each takes the next answer
the source has ready, if that lies in the request's range, and every answer lies in the range (R125, R291; the queue of
ready answers is the model's, log 2). -/
def Obligations.RandomAnswersAreTakenInOrder : Prop :=
  ∀ s t : State, step s = .next t → DrawsInOrder s.random t.random

/-- A later advance that finds the state of another kind, or ⊥, stops: every operation but SOLID's reads its own variant
(R14, R46; the stop is the model's, log 9). -/
def Obligations.UndefinedPatternStops : Prop :=
  ∀ s : State, s.advInitial = false →
    (∀ p ∈ advTable, p.1 ≠ 0 → patternKind s.ps ≠ decodeKind (BitVec.ofNat 3 p.1) →
      exec p.2 s = .fault .undefinedPattern) ∧
    (∀ q, s.ps = .lava q → (q.buf.length ≠ s.params.pixels ∨ q.blobs.length ≠ s.params.nblobs) →
      exec .advLava s = .fault .undefinedPattern)

/-! ## Colour math -/

/-- R131: the laws of mix. -/
def Obligations.MixLaws : Prop :=
  ∀ (a b : Color) (n : Ratio),
    (ChannelWise (fun x _ => x) a a (mix a a n) ∧ (Concrete a → mix a a n = a)) ∧
    (ChannelWise (fun x _ => x) a a (mix a b 0) ∧ ChannelWise (fun x _ => x) b b (mix a b 127)) ∧
    mix a b n = mix b a (127 - n) ∧
    (∀ (j x y z : Nat), (channelsOf a)[j]? = some x → (channelsOf b)[j]? = some y →
      (channelsOf (mix a b n))[j]? = some z → min (x % 128) (y % 128) ≤ z ∧ z ≤ max (x % 128) (y % 128)) ∧
    channelsOf (mix 0x000000 0x7F7F7F n) = [n.toNat, n.toNat, n.toNat]

/-- R133: repeated morph steps reach a concrete target exactly when the largest channel distance has been walked, and stay. -/
def Obligations.MorphConverges : Prop :=
  ∀ (base target : Color) (x0 : Color) (k : Nat), Concrete target → ChannelWise (fun x _ => x) base base x0 →
    let dist := fun (x y : Nat) => if x ≤ y then y - x else x - y
    let D := (List.zipWith dist (channelsOf x0) (channelsOf target)).foldl max 0
    ((fun c => morph c target)^[k] x0 = target ↔ D ≤ k)

/-- R132: mix, dim and morph always give concrete colours, and expand does for every valid colour. -/
def Obligations.ColourMathIsClosed : Prop :=
  (∀ (a b : Color) (n : Ratio), Concrete (mix a b n) ∧ Concrete (dim a n) ∧ Concrete (morph a b)) ∧
  (∀ (c : Color) (p : RandomPort), Concrete c ∨ c = 0x808080 ∨ c = 0x818181 → Concrete (expand c p).1)

/-- R134, and that every answer is possible (R125): a sentinel's expansion makes three requests of its kind; any three
answers in range are what some Random source gives. -/
def Obligations.ExpandTakesAnyAnswers : Prop :=
  (∀ (c : Color) (p : RandomPort), Expands c p (expand c p).1 (expand c p).2) ∧
  (∀ (r g b : Nat) (p : RandomPort), r ≤ 127 → g ≤ 127 → b ≤ 127 → p.queued = [r, g, b] →
    channelsOf (expand 0x808080 p).1 = [r, g, b]) ∧
  (∀ (r g b : Nat) (p : RandomPort), r ≤ 1 → g ≤ 1 → b ≤ 1 → p.queued = [r, g, b] →
    channelsOf (expand 0x818181 p).1 = [127 * r, 127 * g, 127 * b])

/-! ## Invariants and whole-machine rules -/

/-- The machine right after reset satisfies the invariant. -/
def Obligations.ResetSatisfiesInvariant : Prop := Inv State.reset

/-- Every step keeps the invariant, whatever is pending. -/
def Obligations.StepKeepsInvariant : Prop :=
  ∀ s t : State, Inv s → step s = .next t → Inv t

/-- R52, R98, R283: in a state that satisfies the invariant no step stops: no ⊥ is read and no kind is unreachable. -/
def Obligations.InvariantStepNeverStops : Prop :=
  ∀ s : State, Inv s → ∃ t, step s = .next t

/-- R281: the values after reset, and the TICK right after it: a black frame and delay 0. -/
def Obligations.ResetLeavesZeroes : Prop :=
  (∀ r : HostReg, readHostReg r State.reset =
    if r = .pixels then BitVec.ofNat 32 State.reset.params.pixels
    else if r = .nblobs then BitVec.ofNat 32 State.reset.params.nblobs else 0) ∧
  State.reset.ps = .bot ∧
  ∃ t, exec .tick State.reset = .next t ∧ t.lastDelay = 0 ∧
    t.out = oneFrame (List.replicate State.reset.params.pixels 0x000000)

/-- The active configuration changes only at a write of SETPAT's word to CMD or at a reset; NOW only at a write to NOW or a
reset; the build parameters never (R39 to R43, R59, R60; that they wait in `pending` is the model's, log 3). -/
def Obligations.OnlySetpatChangesActive : Prop :=
  ∀ s t : State, step s = .next t → t.params = s.params ∧
    ((∃ rest, s.pending = .reset :: rest) ∨
     ((t.actKind = s.actKind ∧ t.actColorA = s.actColorA ∧ t.actColorB = s.actColorB ∧ t.actSpeed = s.actSpeed) ∨
       ∃ rest, s.pending = .bus { off := 0x00, size := 4, op := .write 1 } :: rest) ∧
     (t.now = s.now ∨ ∃ v rest, s.pending = .bus { off := 0x28, size := 4, op := .write v } :: rest ∧ t.now = v))

/-- R62: no command and no advance depends on STATUS: with another status word before it, an instruction that is no read of
STATUS does the same to everything else. -/
def Obligations.StatusIsNeverRead : Prop :=
  ∀ (i : Instr) (s : State) (st : BitVec 6), i ≠ .rd 0x04 →
    (∀ t, exec i s = .next t → ∃ st', exec i { s with status := st } = .next { t with status := st' }) ∧
    (∀ f, exec i s = .fault f → exec i { s with status := st } = .fault f)

/-- R287: the staging registers, the colour math operands and RES do not affect a TICK, which leaves them alone. -/
def Obligations.TickIgnoresStaging : Prop :=
  ∀ (s : State) (k : BitVec 3) (a b x y z : Color) (v : Word),
    let staged := fun u : State =>
      { u with cfgKind := k, cfgColorA := a, cfgColorB := b, cfgSpeed := v, opa := x, opb := y, res := z }
    (∀ t, exec .tick s = .next t → exec .tick (staged s) = .next (staged t)) ∧
    (∀ f, exec .tick s = .fault f → exec .tick (staged s) = .fault f)

/-! ## Interfaces -/

/-- R234, R235: the bytes of a concrete Pixel are green, red, blue with the high bit set, and a Latch is ceil(P/32)·8 zero
bytes. -/
def Obligations.SinkBytesAreFramedGrb : Prop :=
  (∀ (pixels : Nat) (c : Color), Concrete c →
    (eventBytes pixels (.pixel c)).map BitVec.toNat =
      [c.toNat / 256 % 256 + 128, c.toNat / 65536 + 128, c.toNat % 256 + 128]) ∧
  (∀ pixels : Nat, ∃ n : Nat, eventBytes pixels .latch = List.replicate (n * 8) 0 ∧
    pixels ≤ n * 32 ∧ n * 32 < pixels + 32)

/-- R236 to R238: the status text is the kind's name, two colours of exactly `0x` and six upper-case digits, and the speed,
joined by commas; reading the digits back gives the registers, and the speed has at least one digit and no leading zero (`0`
for zero). The text is built outside the Block (log 16). -/
def Obligations.StatusTextReadsBack : Prop :=
  ∀ (s : State) (name : List Char),
    (s.actKind.toNat, name) ∈ [ (0, "SOLID".toList), (1, "PULSE".toList), (2, "CYLON".toList),
      (3, "ALTERNATE".toList), (4, "FLICKER".toList), (5, "LAVA".toList) ] →
    ∃ ha hb d, ha.length = 6 ∧ hb.length = 6 ∧
      (∀ ch ∈ ha ++ hb, ch ∈ "0123456789ABCDEF".toList) ∧ (∀ ch ∈ d, ch ∈ "0123456789".toList) ∧
      digitsValue 16 ha 0 = some s.actColorA.toNat ∧ digitsValue 16 hb 0 = some s.actColorB.toNat ∧
      digitsValue 10 d 0 = some s.actSpeed.toNat ∧ d ≠ [] ∧ (d.head? = some '0' → d = ['0']) ∧
      statusText s = some (name ++ [',', '0', 'x'] ++ ha ++ [',', '0', 'x'] ++ hb ++ [','] ++ d)

/-- R101: each pseudo-instruction expands to the writes of its operands and of its command's word, in order; an operand out
of range is refused, and kinds 6 and 7 and invalid colours are not. -/
def Obligations.PseudoInstructionsExpand : Prop :=
  ∀ op a b n k v : Nat,
    let wr := fun (off : Offset) (x : Nat) => Instr.wr off (BitVec.ofNat 32 x)
    (op < 16 → n < 128 → expandStatement (.cmd op n) = some [wr 0x00 (n * 16 + op)]) ∧
    (∀ x, parseStatement ["cmd".toList, x] = (parseValue x).map fun o => .cmd o 0) ∧
    expandStatement .nop = some [wr 0x00 0] ∧ expandStatement .parse = some [wr 0x00 7] ∧
    (k < 8 → a < 2 ^ 24 → b < 2 ^ 24 → v < 2 ^ 32 → expandStatement (.setpat k a b v) =
      some [wr 0x08 k, wr 0x0C a, wr 0x10 b, wr 0x14 v, wr 0x00 1]) ∧
    (v < 2 ^ 32 → expandStatement (.tick v) = some [wr 0x28 v, wr 0x00 2]) ∧
    (a < 2 ^ 24 → b < 2 ^ 24 → n < 128 →
      expandStatement (.mix a b n) = some [wr 0x34 a, wr 0x38 b, wr 0x00 (n * 16 + 3)]) ∧
    (a < 2 ^ 24 → n < 128 → expandStatement (.dim a n) = some [wr 0x34 a, wr 0x00 (n * 16 + 4)]) ∧
    (a < 2 ^ 24 → b < 2 ^ 24 → expandStatement (.morph a b) = some [wr 0x34 a, wr 0x38 b, wr 0x00 5]) ∧
    (a < 2 ^ 24 → expandStatement (.expand a) = some [wr 0x34 a, wr 0x00 6]) ∧
    (127 < n → expandStatement (.cmd op n) = none ∧ expandStatement (.mix a b n) = none ∧
      expandStatement (.dim a n) = none) ∧
    (7 < k → expandStatement (.setpat k a b v) = none) ∧
    (0xFFFFFF < a → expandStatement (.setpat k a b v) = none ∧ expandStatement (.setpat k b a v) = none ∧
      expandStatement (.mix a b n) = none ∧ expandStatement (.mix b a n) = none ∧ expandStatement (.dim a n) = none ∧
      expandStatement (.morph a b) = none ∧ expandStatement (.morph b a) = none ∧ expandStatement (.expand a) = none)
end

