-- ==== Sys2Proof/Laws/Color.lean ====
section
/-! SUPPORT. The channels of colour words, and what mix, dim and morph compute on each channel. -/

namespace Sys2Proof.Machine

theorem rgb_toNat (r g b : Channel) : (rgb r g b).toNat = r.toNat * 65536 + g.toNat * 256 + b.toNat := by
  have hg := g.isLt
  have hb := b.isLt
  simp only [rgb, BitVec.toNat_append, Nat.shiftLeft_eq, Nat.mul_comm _ (2 ^ 8)]
  rw [← Nat.two_pow_add_eq_or_of_lt hg, ← Nat.two_pow_add_eq_or_of_lt hb]
  omega
theorem red_toNat (c : Color) : (red c).toNat = c.toNat / 65536 := by
  have := c.isLt
  simp only [red, BitVec.extractLsb'_toNat, Nat.shiftRight_eq_div_pow]
  omega
theorem green_toNat (c : Color) : (green c).toNat = c.toNat / 256 % 256 := by
  simp [green, BitVec.extractLsb'_toNat, Nat.shiftRight_eq_div_pow]
theorem blue_toNat (c : Color) : (blue c).toNat = c.toNat % 256 := by
  simp [blue, BitVec.extractLsb'_toNat]
@[simp] theorem red_rgb (r g b : Channel) : red (rgb r g b) = r := by
  apply BitVec.eq_of_toNat_eq
  have := g.isLt; have := b.isLt
  rw [red_toNat, rgb_toNat]; omega
@[simp] theorem green_rgb (r g b : Channel) : green (rgb r g b) = g := by
  apply BitVec.eq_of_toNat_eq
  have := g.isLt; have := b.isLt
  rw [green_toNat, rgb_toNat]; omega
@[simp] theorem blue_rgb (r g b : Channel) : blue (rgb r g b) = b := by
  apply BitVec.eq_of_toNat_eq
  have := g.isLt; have := b.isLt
  rw [blue_toNat, rgb_toNat]; omega
theorem color_ext {a b : Color} (hr : (red a).toNat = (red b).toNat) (hg : (green a).toNat = (green b).toNat)
    (hb : (blue a).toNat = (blue b).toNat) : a = b := by
  apply BitVec.eq_of_toNat_eq
  rw [red_toNat, red_toNat] at hr
  rw [green_toNat, green_toNat] at hg
  rw [blue_toNat, blue_toNat] at hb
  omega
theorem rgb_channels (c : Color) : rgb (red c) (green c) (blue c) = c :=
  color_ext (by simp) (by simp) (by simp)
theorem masked_le (ch : Channel) : masked ch ≤ 127 := by unfold masked; omega
theorem mixChannel_le {n x y : Nat} (hn : n ≤ 127) (hx : x ≤ 127) (hy : y ≤ 127) : mixChannel n x y ≤ 127 := by
  unfold mixChannel
  have h1 : x * (127 - n) ≤ 127 * (127 - n) := Nat.mul_le_mul_right _ hx
  have h2 : y * n ≤ 127 * n := Nat.mul_le_mul_right _ hy
  omega
theorem morphChannel_le {x y : Nat} (hx : x ≤ 127) (hy : y ≤ 127) : morphChannel x y ≤ 127 := by
  unfold morphChannel; split <;> [omega; split <;> omega]
theorem ratio_le (n : Ratio) : n.toNat ≤ 127 := by have := n.isLt; omega
theorem isConcrete_iff (c : Color) :
    isConcrete c = true ↔ (red c).toNat ≤ 127 ∧ (green c).toNat ≤ 127 ∧ (blue c).toNat ≤ 127 := by
  simp [isConcrete, and_assoc]
/-- channel values of a per-channel operation whose results fit 7 bits -/
theorem perChannel_channels {f : Nat → Nat → Nat} (hf : ∀ x y, x ≤ 127 → y ≤ 127 → f x y ≤ 127) (a b : Color) :
    (red (perChannel f a b)).toNat = f (masked (red a)) (masked (red b)) ∧
    (green (perChannel f a b)).toNat = f (masked (green a)) (masked (green b)) ∧
    (blue (perChannel f a b)).toNat = f (masked (blue a)) (masked (blue b)) := by
  have h := fun x y => hf _ _ (masked_le x) (masked_le y)
  simp only [perChannel, red_rgb, green_rgb, blue_rgb, BitVec.toNat_ofNat]
  exact ⟨Nat.mod_eq_of_lt (by have := h (red a) (red b); omega),
    Nat.mod_eq_of_lt (by have := h (green a) (green b); omega),
    Nat.mod_eq_of_lt (by have := h (blue a) (blue b); omega)⟩
theorem perChannel_concrete {f : Nat → Nat → Nat} (hf : ∀ x y, x ≤ 127 → y ≤ 127 → f x y ≤ 127) (a b : Color) :
    isConcrete (perChannel f a b) = true := by
  obtain ⟨hr, hg, hb⟩ := perChannel_channels hf a b
  rw [isConcrete_iff, hr, hg, hb]
  exact ⟨hf _ _ (masked_le _) (masked_le _), hf _ _ (masked_le _) (masked_le _), hf _ _ (masked_le _) (masked_le _)⟩
theorem mix_channels (a b : Color) (n : Ratio) :
    (red (mix a b n)).toNat = mixChannel n.toNat (masked (red a)) (masked (red b)) ∧
    (green (mix a b n)).toNat = mixChannel n.toNat (masked (green a)) (masked (green b)) ∧
    (blue (mix a b n)).toNat = mixChannel n.toNat (masked (blue a)) (masked (blue b)) :=
  perChannel_channels (fun _ _ hx hy => mixChannel_le (ratio_le n) hx hy) a b
theorem morph_channels (a b : Color) :
    (red (morph a b)).toNat = morphChannel (masked (red a)) (masked (red b)) ∧
    (green (morph a b)).toNat = morphChannel (masked (green a)) (masked (green b)) ∧
    (blue (morph a b)).toNat = morphChannel (masked (blue a)) (masked (blue b)) :=
  perChannel_channels (fun _ _ hx hy => morphChannel_le hx hy) a b
theorem mix_concrete (a b : Color) (n : Ratio) : isConcrete (mix a b n) = true :=
  perChannel_concrete (fun _ _ hx hy => mixChannel_le (ratio_le n) hx hy) a b
theorem dim_concrete (c : Color) (n : Ratio) : isConcrete (dim c n) = true := mix_concrete _ _ _
theorem morph_concrete (a b : Color) : isConcrete (morph a b) = true :=
  perChannel_concrete (fun _ _ hx hy => morphChannel_le hx hy) a b
theorem masked_of_le {ch : Channel} (h : ch.toNat ≤ 127) : masked ch = ch.toNat := Nat.mod_eq_of_lt (by omega)
@[simp] theorem black_concrete : isConcrete black = true := by decide
end Sys2Proof.Machine
end

