-- ==== Sys2Proof/Laws/Decode.lean ====
section
/-! SUPPORT. The fields of encoded words, and what the decoders accept. -/

namespace Sys2Proof

theorem cmdWord_toNat (n : Ratio) (op : BitVec 4) : (cmdWord n op).toNat = n.toNat * 16 + op.toNat := by
  have hop := op.isLt
  simp only [cmdWord, BitVec.toNat_append, Nat.shiftLeft_eq, Nat.mul_comm _ (2 ^ 4), BitVec.toNat_ofNat]
  rw [← Nat.two_pow_add_eq_or_of_lt hop]
  simp; omega

theorem cmdOp_toNat (w : Word) : (cmdOp w).toNat = w.toNat % 16 := by
  simp [cmdOp, BitVec.extractLsb'_toNat]
theorem cmdN_toNat (w : Word) : (cmdN w).toNat = w.toNat / 16 % 128 := by
  simp [cmdN, BitVec.extractLsb'_toNat, Nat.shiftRight_eq_div_pow]
theorem cmdRsv_toNat (w : Word) : (cmdRsv w).toNat = w.toNat / 2048 := by
  have := w.isLt
  simp only [cmdRsv, BitVec.extractLsb'_toNat, Nat.shiftRight_eq_div_pow]
  omega

@[simp] theorem cmdOp_cmdWord (n : Ratio) (op : BitVec 4) : cmdOp (cmdWord n op) = op := by
  apply BitVec.eq_of_toNat_eq
  have := op.isLt
  rw [cmdOp_toNat, cmdWord_toNat]; omega
@[simp] theorem cmdN_cmdWord (n : Ratio) (op : BitVec 4) : cmdN (cmdWord n op) = n := by
  apply BitVec.eq_of_toNat_eq
  have := op.isLt; have := n.isLt
  rw [cmdN_toNat, cmdWord_toNat]; omega
@[simp] theorem cmdRsv_cmdWord (n : Ratio) (op : BitVec 4) : cmdRsv (cmdWord n op) = 0 := by
  apply BitVec.eq_of_toNat_eq
  have := op.isLt; have := n.isLt
  rw [cmdRsv_toNat, cmdWord_toNat]; simp; omega

/-- A CMD word is its three fields (30_encoding R91). -/
theorem cmdWord_fields (w : Word) (h : cmdRsv w = 0) : cmdWord (cmdN w) (cmdOp w) = w := by
  apply BitVec.eq_of_toNat_eq
  have h := congrArg BitVec.toNat h
  rw [cmdRsv_toNat] at h
  rw [cmdWord_toNat, cmdN_toNat, cmdOp_toNat]
  simp at h; omega

theorem busWord_toNat (w : BitVec 1) (off : Offset) (d : Word) :
    (busWord w off d).toNat = w.toNat * 2 ^ 40 + off.toNat * 2 ^ 32 + d.toNat := by
  have := off.isLt; have hd := d.isLt
  simp only [busWord, BitVec.toNat_append, Nat.shiftLeft_eq, Nat.mul_comm _ (2 ^ 8), Nat.mul_comm _ (2 ^ 32)]
  rw [← Nat.two_pow_add_eq_or_of_lt off.isLt, ← Nat.two_pow_add_eq_or_of_lt d.isLt]
  omega
theorem busW_toNat (w : BitVec 41) : (busW w).toNat = w.toNat / 2 ^ 40 := by
  have := w.isLt
  simp only [busW, BitVec.extractLsb'_toNat, Nat.shiftRight_eq_div_pow]
  omega
theorem busOff_toNat (w : BitVec 41) : (busOff w).toNat = w.toNat / 2 ^ 32 % 256 := by
  simp [busOff, BitVec.extractLsb'_toNat, Nat.shiftRight_eq_div_pow]
theorem busData_toNat (w : BitVec 41) : (busData w).toNat = w.toNat % 2 ^ 32 := by
  simp [busData, BitVec.extractLsb'_toNat]

@[simp] theorem busW_busWord (w : BitVec 1) (off : Offset) (d : Word) : busW (busWord w off d) = w := by
  apply BitVec.eq_of_toNat_eq
  have := off.isLt; have := d.isLt; have := w.isLt
  rw [busW_toNat, busWord_toNat]; omega
@[simp] theorem busOff_busWord (w : BitVec 1) (off : Offset) (d : Word) : busOff (busWord w off d) = off := by
  apply BitVec.eq_of_toNat_eq
  have := off.isLt; have := d.isLt; have := w.isLt
  rw [busOff_toNat, busWord_toNat]; omega
@[simp] theorem busData_busWord (w : BitVec 1) (off : Offset) (d : Word) : busData (busWord w off d) = d := by
  apply BitVec.eq_of_toNat_eq
  have := off.isLt; have := d.isLt; have := w.isLt
  rw [busData_toNat, busWord_toNat]; omega
/-- A transaction is its three fields (30_encoding R90). -/
theorem busWord_fields (w : BitVec 41) : busWord (busW w) (busOff w) (busData w) = w := by
  apply BitVec.eq_of_toNat_eq
  rw [busWord_toNat, busW_toNat, busOff_toNat, busData_toNat]; omega

/-- What `decodeCmd` accepts: RSV = 0, an OP below 8, and N = 0 outside MIX and DIM (R95). -/
theorem decodeCmd_ok {w : Word} {c : Command} :
    decodeCmd w = .ok c ↔ commandOf (cmdOp w) (cmdN w) = some c ∧ cmdRsv w = 0 ∧
      (cmdN w = 0 ∨ cmdOp w = 3 ∨ cmdOp w = 4) := by
  unfold decodeCmd
  cases h : commandOf (cmdOp w) (cmdN w) with
  | none => simp
  | some d =>
    simp only [Option.some.injEq]
    split
    · next h1 => exact ⟨fun h => (nomatch h), fun h => absurd h.2.1 h1⟩
    · next h1 =>
      split
      · next h2 => exact ⟨fun h => (nomatch h), fun h => by tauto⟩
      · next h2 => exact ⟨fun h => ⟨by injection h, by tauto, by tauto⟩, fun h => by rw [h.1]⟩

theorem decodeBus_read {off : Offset} (h : Offset.aligned off = true) :
    decodeBus (busWord 0 off 0) = .ok (.rd off) := by
  simp [decodeBus, h]
theorem decodeBus_write {off : Offset} (d : Word) (h : Offset.aligned off = true) :
    decodeBus (busWord 1 off d) = .ok (.wr off d) := by
  simp [decodeBus, h]

end Sys2Proof
end

