-- ==== Sys2Proof/Laws/State.lean ====
section
/-! SUPPORT. What each named update of the state does to each field: one lemma per field per update. -/

namespace Sys2Proof.Machine

variable (s : State)

/-! ## cmdResult -/

@[simp] theorem cmdResult_status (code : ResultCode) : (cmdResult code s).status = withErr code s.status := rfl
@[simp] theorem cmdResult_cfgKind (code : ResultCode) : (cmdResult code s).cfgKind = s.cfgKind := rfl
@[simp] theorem cmdResult_cfgColorA (code : ResultCode) : (cmdResult code s).cfgColorA = s.cfgColorA := rfl
@[simp] theorem cmdResult_cfgColorB (code : ResultCode) : (cmdResult code s).cfgColorB = s.cfgColorB := rfl
@[simp] theorem cmdResult_cfgSpeed (code : ResultCode) : (cmdResult code s).cfgSpeed = s.cfgSpeed := rfl
@[simp] theorem cmdResult_actKind (code : ResultCode) : (cmdResult code s).actKind = s.actKind := rfl
@[simp] theorem cmdResult_actColorA (code : ResultCode) : (cmdResult code s).actColorA = s.actColorA := rfl
@[simp] theorem cmdResult_actColorB (code : ResultCode) : (cmdResult code s).actColorB = s.actColorB := rfl
@[simp] theorem cmdResult_actSpeed (code : ResultCode) : (cmdResult code s).actSpeed = s.actSpeed := rfl
@[simp] theorem cmdResult_now (code : ResultCode) : (cmdResult code s).now = s.now := rfl
@[simp] theorem cmdResult_nextDue (code : ResultCode) : (cmdResult code s).nextDue = s.nextDue := rfl
@[simp] theorem cmdResult_lastDelay (code : ResultCode) : (cmdResult code s).lastDelay = s.lastDelay := rfl
@[simp] theorem cmdResult_opa (code : ResultCode) : (cmdResult code s).opa = s.opa := rfl
@[simp] theorem cmdResult_opb (code : ResultCode) : (cmdResult code s).opb = s.opb := rfl
@[simp] theorem cmdResult_res (code : ResultCode) : (cmdResult code s).res = s.res := rfl
@[simp] theorem cmdResult_ps (code : ResultCode) : (cmdResult code s).ps = s.ps := rfl
@[simp] theorem cmdResult_params (code : ResultCode) : (cmdResult code s).params = s.params := rfl
@[simp] theorem cmdResult_advInitial (code : ResultCode) : (cmdResult code s).advInitial = s.advInitial := rfl
@[simp] theorem cmdResult_advDelay (code : ResultCode) : (cmdResult code s).advDelay = s.advDelay := rfl
@[simp] theorem cmdResult_reply (code : ResultCode) : (cmdResult code s).reply = s.reply := rfl
@[simp] theorem cmdResult_busErrors (code : ResultCode) : (cmdResult code s).busErrors = s.busErrors := rfl
@[simp] theorem cmdResult_pending (code : ResultCode) : (cmdResult code s).pending = s.pending := rfl
@[simp] theorem cmdResult_random (code : ResultCode) : (cmdResult code s).random = s.random := rfl
@[simp] theorem cmdResult_sinkReady (code : ResultCode) : (cmdResult code s).sinkReady = s.sinkReady := rfl
@[simp] theorem cmdResult_out (code : ResultCode) : (cmdResult code s).out = s.out := rfl

/-! ## setTickFlags -/

@[simp] theorem setTickFlags_status (ran init : Bool) : (setTickFlags ran init s).status = withTickFlags ran init s.status := rfl
@[simp] theorem setTickFlags_cfgKind (ran init : Bool) : (setTickFlags ran init s).cfgKind = s.cfgKind := rfl
@[simp] theorem setTickFlags_cfgColorA (ran init : Bool) : (setTickFlags ran init s).cfgColorA = s.cfgColorA := rfl
@[simp] theorem setTickFlags_cfgColorB (ran init : Bool) : (setTickFlags ran init s).cfgColorB = s.cfgColorB := rfl
@[simp] theorem setTickFlags_cfgSpeed (ran init : Bool) : (setTickFlags ran init s).cfgSpeed = s.cfgSpeed := rfl
@[simp] theorem setTickFlags_actKind (ran init : Bool) : (setTickFlags ran init s).actKind = s.actKind := rfl
@[simp] theorem setTickFlags_actColorA (ran init : Bool) : (setTickFlags ran init s).actColorA = s.actColorA := rfl
@[simp] theorem setTickFlags_actColorB (ran init : Bool) : (setTickFlags ran init s).actColorB = s.actColorB := rfl
@[simp] theorem setTickFlags_actSpeed (ran init : Bool) : (setTickFlags ran init s).actSpeed = s.actSpeed := rfl
@[simp] theorem setTickFlags_now (ran init : Bool) : (setTickFlags ran init s).now = s.now := rfl
@[simp] theorem setTickFlags_nextDue (ran init : Bool) : (setTickFlags ran init s).nextDue = s.nextDue := rfl
@[simp] theorem setTickFlags_lastDelay (ran init : Bool) : (setTickFlags ran init s).lastDelay = s.lastDelay := rfl
@[simp] theorem setTickFlags_opa (ran init : Bool) : (setTickFlags ran init s).opa = s.opa := rfl
@[simp] theorem setTickFlags_opb (ran init : Bool) : (setTickFlags ran init s).opb = s.opb := rfl
@[simp] theorem setTickFlags_res (ran init : Bool) : (setTickFlags ran init s).res = s.res := rfl
@[simp] theorem setTickFlags_ps (ran init : Bool) : (setTickFlags ran init s).ps = s.ps := rfl
@[simp] theorem setTickFlags_params (ran init : Bool) : (setTickFlags ran init s).params = s.params := rfl
@[simp] theorem setTickFlags_advInitial (ran init : Bool) : (setTickFlags ran init s).advInitial = s.advInitial := rfl
@[simp] theorem setTickFlags_advDelay (ran init : Bool) : (setTickFlags ran init s).advDelay = s.advDelay := rfl
@[simp] theorem setTickFlags_reply (ran init : Bool) : (setTickFlags ran init s).reply = s.reply := rfl
@[simp] theorem setTickFlags_busErrors (ran init : Bool) : (setTickFlags ran init s).busErrors = s.busErrors := rfl
@[simp] theorem setTickFlags_pending (ran init : Bool) : (setTickFlags ran init s).pending = s.pending := rfl
@[simp] theorem setTickFlags_random (ran init : Bool) : (setTickFlags ran init s).random = s.random := rfl
@[simp] theorem setTickFlags_sinkReady (ran init : Bool) : (setTickFlags ran init s).sinkReady = s.sinkReady := rfl
@[simp] theorem setTickFlags_out (ran init : Bool) : (setTickFlags ran init s).out = s.out := rfl

/-! ## setRes -/

@[simp] theorem setRes_status (c : Color) : (setRes c s).status = s.status := rfl
@[simp] theorem setRes_cfgKind (c : Color) : (setRes c s).cfgKind = s.cfgKind := rfl
@[simp] theorem setRes_cfgColorA (c : Color) : (setRes c s).cfgColorA = s.cfgColorA := rfl
@[simp] theorem setRes_cfgColorB (c : Color) : (setRes c s).cfgColorB = s.cfgColorB := rfl
@[simp] theorem setRes_cfgSpeed (c : Color) : (setRes c s).cfgSpeed = s.cfgSpeed := rfl
@[simp] theorem setRes_actKind (c : Color) : (setRes c s).actKind = s.actKind := rfl
@[simp] theorem setRes_actColorA (c : Color) : (setRes c s).actColorA = s.actColorA := rfl
@[simp] theorem setRes_actColorB (c : Color) : (setRes c s).actColorB = s.actColorB := rfl
@[simp] theorem setRes_actSpeed (c : Color) : (setRes c s).actSpeed = s.actSpeed := rfl
@[simp] theorem setRes_now (c : Color) : (setRes c s).now = s.now := rfl
@[simp] theorem setRes_nextDue (c : Color) : (setRes c s).nextDue = s.nextDue := rfl
@[simp] theorem setRes_lastDelay (c : Color) : (setRes c s).lastDelay = s.lastDelay := rfl
@[simp] theorem setRes_opa (c : Color) : (setRes c s).opa = s.opa := rfl
@[simp] theorem setRes_opb (c : Color) : (setRes c s).opb = s.opb := rfl
@[simp] theorem setRes_res (c : Color) : (setRes c s).res = c := rfl
@[simp] theorem setRes_ps (c : Color) : (setRes c s).ps = s.ps := rfl
@[simp] theorem setRes_params (c : Color) : (setRes c s).params = s.params := rfl
@[simp] theorem setRes_advInitial (c : Color) : (setRes c s).advInitial = s.advInitial := rfl
@[simp] theorem setRes_advDelay (c : Color) : (setRes c s).advDelay = s.advDelay := rfl
@[simp] theorem setRes_reply (c : Color) : (setRes c s).reply = s.reply := rfl
@[simp] theorem setRes_busErrors (c : Color) : (setRes c s).busErrors = s.busErrors := rfl
@[simp] theorem setRes_pending (c : Color) : (setRes c s).pending = s.pending := rfl
@[simp] theorem setRes_random (c : Color) : (setRes c s).random = s.random := rfl
@[simp] theorem setRes_sinkReady (c : Color) : (setRes c s).sinkReady = s.sinkReady := rfl
@[simp] theorem setRes_out (c : Color) : (setRes c s).out = s.out := rfl

/-! ## answer -/

@[simp] theorem answer_status (r : BusReply) : (answer r s).status = s.status := rfl
@[simp] theorem answer_cfgKind (r : BusReply) : (answer r s).cfgKind = s.cfgKind := rfl
@[simp] theorem answer_cfgColorA (r : BusReply) : (answer r s).cfgColorA = s.cfgColorA := rfl
@[simp] theorem answer_cfgColorB (r : BusReply) : (answer r s).cfgColorB = s.cfgColorB := rfl
@[simp] theorem answer_cfgSpeed (r : BusReply) : (answer r s).cfgSpeed = s.cfgSpeed := rfl
@[simp] theorem answer_actKind (r : BusReply) : (answer r s).actKind = s.actKind := rfl
@[simp] theorem answer_actColorA (r : BusReply) : (answer r s).actColorA = s.actColorA := rfl
@[simp] theorem answer_actColorB (r : BusReply) : (answer r s).actColorB = s.actColorB := rfl
@[simp] theorem answer_actSpeed (r : BusReply) : (answer r s).actSpeed = s.actSpeed := rfl
@[simp] theorem answer_now (r : BusReply) : (answer r s).now = s.now := rfl
@[simp] theorem answer_nextDue (r : BusReply) : (answer r s).nextDue = s.nextDue := rfl
@[simp] theorem answer_lastDelay (r : BusReply) : (answer r s).lastDelay = s.lastDelay := rfl
@[simp] theorem answer_opa (r : BusReply) : (answer r s).opa = s.opa := rfl
@[simp] theorem answer_opb (r : BusReply) : (answer r s).opb = s.opb := rfl
@[simp] theorem answer_res (r : BusReply) : (answer r s).res = s.res := rfl
@[simp] theorem answer_ps (r : BusReply) : (answer r s).ps = s.ps := rfl
@[simp] theorem answer_params (r : BusReply) : (answer r s).params = s.params := rfl
@[simp] theorem answer_advInitial (r : BusReply) : (answer r s).advInitial = s.advInitial := rfl
@[simp] theorem answer_advDelay (r : BusReply) : (answer r s).advDelay = s.advDelay := rfl
@[simp] theorem answer_reply (r : BusReply) : (answer r s).reply = r := rfl
@[simp] theorem answer_busErrors (r : BusReply) : (answer r s).busErrors = s.busErrors := rfl
@[simp] theorem answer_pending (r : BusReply) : (answer r s).pending = s.pending := rfl
@[simp] theorem answer_random (r : BusReply) : (answer r s).random = s.random := rfl
@[simp] theorem answer_sinkReady (r : BusReply) : (answer r s).sinkReady = s.sinkReady := rfl
@[simp] theorem answer_out (r : BusReply) : (answer r s).out = s.out := rfl

/-! ## setRandom -/

@[simp] theorem setRandom_status (p : RandomPort) : (setRandom p s).status = s.status := rfl
@[simp] theorem setRandom_cfgKind (p : RandomPort) : (setRandom p s).cfgKind = s.cfgKind := rfl
@[simp] theorem setRandom_cfgColorA (p : RandomPort) : (setRandom p s).cfgColorA = s.cfgColorA := rfl
@[simp] theorem setRandom_cfgColorB (p : RandomPort) : (setRandom p s).cfgColorB = s.cfgColorB := rfl
@[simp] theorem setRandom_cfgSpeed (p : RandomPort) : (setRandom p s).cfgSpeed = s.cfgSpeed := rfl
@[simp] theorem setRandom_actKind (p : RandomPort) : (setRandom p s).actKind = s.actKind := rfl
@[simp] theorem setRandom_actColorA (p : RandomPort) : (setRandom p s).actColorA = s.actColorA := rfl
@[simp] theorem setRandom_actColorB (p : RandomPort) : (setRandom p s).actColorB = s.actColorB := rfl
@[simp] theorem setRandom_actSpeed (p : RandomPort) : (setRandom p s).actSpeed = s.actSpeed := rfl
@[simp] theorem setRandom_now (p : RandomPort) : (setRandom p s).now = s.now := rfl
@[simp] theorem setRandom_nextDue (p : RandomPort) : (setRandom p s).nextDue = s.nextDue := rfl
@[simp] theorem setRandom_lastDelay (p : RandomPort) : (setRandom p s).lastDelay = s.lastDelay := rfl
@[simp] theorem setRandom_opa (p : RandomPort) : (setRandom p s).opa = s.opa := rfl
@[simp] theorem setRandom_opb (p : RandomPort) : (setRandom p s).opb = s.opb := rfl
@[simp] theorem setRandom_res (p : RandomPort) : (setRandom p s).res = s.res := rfl
@[simp] theorem setRandom_ps (p : RandomPort) : (setRandom p s).ps = s.ps := rfl
@[simp] theorem setRandom_params (p : RandomPort) : (setRandom p s).params = s.params := rfl
@[simp] theorem setRandom_advInitial (p : RandomPort) : (setRandom p s).advInitial = s.advInitial := rfl
@[simp] theorem setRandom_advDelay (p : RandomPort) : (setRandom p s).advDelay = s.advDelay := rfl
@[simp] theorem setRandom_reply (p : RandomPort) : (setRandom p s).reply = s.reply := rfl
@[simp] theorem setRandom_busErrors (p : RandomPort) : (setRandom p s).busErrors = s.busErrors := rfl
@[simp] theorem setRandom_pending (p : RandomPort) : (setRandom p s).pending = s.pending := rfl
@[simp] theorem setRandom_random (p : RandomPort) : (setRandom p s).random = p := rfl
@[simp] theorem setRandom_sinkReady (p : RandomPort) : (setRandom p s).sinkReady = s.sinkReady := rfl
@[simp] theorem setRandom_out (p : RandomPort) : (setRandom p s).out = s.out := rfl

/-! ## emit -/

@[simp] theorem emit_status (es : List Event) : (emit es s).status = s.status := rfl
@[simp] theorem emit_cfgKind (es : List Event) : (emit es s).cfgKind = s.cfgKind := rfl
@[simp] theorem emit_cfgColorA (es : List Event) : (emit es s).cfgColorA = s.cfgColorA := rfl
@[simp] theorem emit_cfgColorB (es : List Event) : (emit es s).cfgColorB = s.cfgColorB := rfl
@[simp] theorem emit_cfgSpeed (es : List Event) : (emit es s).cfgSpeed = s.cfgSpeed := rfl
@[simp] theorem emit_actKind (es : List Event) : (emit es s).actKind = s.actKind := rfl
@[simp] theorem emit_actColorA (es : List Event) : (emit es s).actColorA = s.actColorA := rfl
@[simp] theorem emit_actColorB (es : List Event) : (emit es s).actColorB = s.actColorB := rfl
@[simp] theorem emit_actSpeed (es : List Event) : (emit es s).actSpeed = s.actSpeed := rfl
@[simp] theorem emit_now (es : List Event) : (emit es s).now = s.now := rfl
@[simp] theorem emit_nextDue (es : List Event) : (emit es s).nextDue = s.nextDue := rfl
@[simp] theorem emit_lastDelay (es : List Event) : (emit es s).lastDelay = s.lastDelay := rfl
@[simp] theorem emit_opa (es : List Event) : (emit es s).opa = s.opa := rfl
@[simp] theorem emit_opb (es : List Event) : (emit es s).opb = s.opb := rfl
@[simp] theorem emit_res (es : List Event) : (emit es s).res = s.res := rfl
@[simp] theorem emit_ps (es : List Event) : (emit es s).ps = s.ps := rfl
@[simp] theorem emit_params (es : List Event) : (emit es s).params = s.params := rfl
@[simp] theorem emit_advInitial (es : List Event) : (emit es s).advInitial = s.advInitial := rfl
@[simp] theorem emit_advDelay (es : List Event) : (emit es s).advDelay = s.advDelay := rfl
@[simp] theorem emit_reply (es : List Event) : (emit es s).reply = s.reply := rfl
@[simp] theorem emit_busErrors (es : List Event) : (emit es s).busErrors = s.busErrors := rfl
@[simp] theorem emit_pending (es : List Event) : (emit es s).pending = s.pending := rfl
@[simp] theorem emit_random (es : List Event) : (emit es s).random = s.random := rfl
@[simp] theorem emit_sinkReady (es : List Event) : (emit es s).sinkReady = s.sinkReady := rfl
@[simp] theorem emit_out (es : List Event) : (emit es s).out = s.out ++ es := rfl

/-! ## drawFrame -/

@[simp] theorem drawFrame_status (cs : List Color) : (drawFrame cs s).status = s.status := rfl
@[simp] theorem drawFrame_cfgKind (cs : List Color) : (drawFrame cs s).cfgKind = s.cfgKind := rfl
@[simp] theorem drawFrame_cfgColorA (cs : List Color) : (drawFrame cs s).cfgColorA = s.cfgColorA := rfl
@[simp] theorem drawFrame_cfgColorB (cs : List Color) : (drawFrame cs s).cfgColorB = s.cfgColorB := rfl
@[simp] theorem drawFrame_cfgSpeed (cs : List Color) : (drawFrame cs s).cfgSpeed = s.cfgSpeed := rfl
@[simp] theorem drawFrame_actKind (cs : List Color) : (drawFrame cs s).actKind = s.actKind := rfl
@[simp] theorem drawFrame_actColorA (cs : List Color) : (drawFrame cs s).actColorA = s.actColorA := rfl
@[simp] theorem drawFrame_actColorB (cs : List Color) : (drawFrame cs s).actColorB = s.actColorB := rfl
@[simp] theorem drawFrame_actSpeed (cs : List Color) : (drawFrame cs s).actSpeed = s.actSpeed := rfl
@[simp] theorem drawFrame_now (cs : List Color) : (drawFrame cs s).now = s.now := rfl
@[simp] theorem drawFrame_nextDue (cs : List Color) : (drawFrame cs s).nextDue = s.nextDue := rfl
@[simp] theorem drawFrame_lastDelay (cs : List Color) : (drawFrame cs s).lastDelay = s.lastDelay := rfl
@[simp] theorem drawFrame_opa (cs : List Color) : (drawFrame cs s).opa = s.opa := rfl
@[simp] theorem drawFrame_opb (cs : List Color) : (drawFrame cs s).opb = s.opb := rfl
@[simp] theorem drawFrame_res (cs : List Color) : (drawFrame cs s).res = s.res := rfl
@[simp] theorem drawFrame_ps (cs : List Color) : (drawFrame cs s).ps = s.ps := rfl
@[simp] theorem drawFrame_params (cs : List Color) : (drawFrame cs s).params = s.params := rfl
@[simp] theorem drawFrame_advInitial (cs : List Color) : (drawFrame cs s).advInitial = s.advInitial := rfl
@[simp] theorem drawFrame_advDelay (cs : List Color) : (drawFrame cs s).advDelay = s.advDelay := rfl
@[simp] theorem drawFrame_reply (cs : List Color) : (drawFrame cs s).reply = s.reply := rfl
@[simp] theorem drawFrame_busErrors (cs : List Color) : (drawFrame cs s).busErrors = s.busErrors := rfl
@[simp] theorem drawFrame_pending (cs : List Color) : (drawFrame cs s).pending = s.pending := rfl
@[simp] theorem drawFrame_random (cs : List Color) : (drawFrame cs s).random = s.random := rfl
@[simp] theorem drawFrame_sinkReady (cs : List Color) : (drawFrame cs s).sinkReady = s.sinkReady := rfl
@[simp] theorem drawFrame_out (cs : List Color) : (drawFrame cs s).out = s.out ++ frameOf cs := rfl

/-! ## drawSolid -/

@[simp] theorem drawSolid_status (c : Color) : (drawSolid c s).status = s.status := rfl
@[simp] theorem drawSolid_cfgKind (c : Color) : (drawSolid c s).cfgKind = s.cfgKind := rfl
@[simp] theorem drawSolid_cfgColorA (c : Color) : (drawSolid c s).cfgColorA = s.cfgColorA := rfl
@[simp] theorem drawSolid_cfgColorB (c : Color) : (drawSolid c s).cfgColorB = s.cfgColorB := rfl
@[simp] theorem drawSolid_cfgSpeed (c : Color) : (drawSolid c s).cfgSpeed = s.cfgSpeed := rfl
@[simp] theorem drawSolid_actKind (c : Color) : (drawSolid c s).actKind = s.actKind := rfl
@[simp] theorem drawSolid_actColorA (c : Color) : (drawSolid c s).actColorA = s.actColorA := rfl
@[simp] theorem drawSolid_actColorB (c : Color) : (drawSolid c s).actColorB = s.actColorB := rfl
@[simp] theorem drawSolid_actSpeed (c : Color) : (drawSolid c s).actSpeed = s.actSpeed := rfl
@[simp] theorem drawSolid_now (c : Color) : (drawSolid c s).now = s.now := rfl
@[simp] theorem drawSolid_nextDue (c : Color) : (drawSolid c s).nextDue = s.nextDue := rfl
@[simp] theorem drawSolid_lastDelay (c : Color) : (drawSolid c s).lastDelay = s.lastDelay := rfl
@[simp] theorem drawSolid_opa (c : Color) : (drawSolid c s).opa = s.opa := rfl
@[simp] theorem drawSolid_opb (c : Color) : (drawSolid c s).opb = s.opb := rfl
@[simp] theorem drawSolid_res (c : Color) : (drawSolid c s).res = s.res := rfl
@[simp] theorem drawSolid_ps (c : Color) : (drawSolid c s).ps = s.ps := rfl
@[simp] theorem drawSolid_params (c : Color) : (drawSolid c s).params = s.params := rfl
@[simp] theorem drawSolid_advInitial (c : Color) : (drawSolid c s).advInitial = s.advInitial := rfl
@[simp] theorem drawSolid_advDelay (c : Color) : (drawSolid c s).advDelay = s.advDelay := rfl
@[simp] theorem drawSolid_reply (c : Color) : (drawSolid c s).reply = s.reply := rfl
@[simp] theorem drawSolid_busErrors (c : Color) : (drawSolid c s).busErrors = s.busErrors := rfl
@[simp] theorem drawSolid_pending (c : Color) : (drawSolid c s).pending = s.pending := rfl
@[simp] theorem drawSolid_random (c : Color) : (drawSolid c s).random = s.random := rfl
@[simp] theorem drawSolid_sinkReady (c : Color) : (drawSolid c s).sinkReady = s.sinkReady := rfl
@[simp] theorem drawSolid_out (c : Color) : (drawSolid c s).out = s.out ++ frameOf (List.replicate s.params.pixels c) := rfl

/-! ## setPs -/

@[simp] theorem setPs_status (p : PatternState) : (setPs p s).status = s.status := rfl
@[simp] theorem setPs_cfgKind (p : PatternState) : (setPs p s).cfgKind = s.cfgKind := rfl
@[simp] theorem setPs_cfgColorA (p : PatternState) : (setPs p s).cfgColorA = s.cfgColorA := rfl
@[simp] theorem setPs_cfgColorB (p : PatternState) : (setPs p s).cfgColorB = s.cfgColorB := rfl
@[simp] theorem setPs_cfgSpeed (p : PatternState) : (setPs p s).cfgSpeed = s.cfgSpeed := rfl
@[simp] theorem setPs_actKind (p : PatternState) : (setPs p s).actKind = s.actKind := rfl
@[simp] theorem setPs_actColorA (p : PatternState) : (setPs p s).actColorA = s.actColorA := rfl
@[simp] theorem setPs_actColorB (p : PatternState) : (setPs p s).actColorB = s.actColorB := rfl
@[simp] theorem setPs_actSpeed (p : PatternState) : (setPs p s).actSpeed = s.actSpeed := rfl
@[simp] theorem setPs_now (p : PatternState) : (setPs p s).now = s.now := rfl
@[simp] theorem setPs_nextDue (p : PatternState) : (setPs p s).nextDue = s.nextDue := rfl
@[simp] theorem setPs_lastDelay (p : PatternState) : (setPs p s).lastDelay = s.lastDelay := rfl
@[simp] theorem setPs_opa (p : PatternState) : (setPs p s).opa = s.opa := rfl
@[simp] theorem setPs_opb (p : PatternState) : (setPs p s).opb = s.opb := rfl
@[simp] theorem setPs_res (p : PatternState) : (setPs p s).res = s.res := rfl
@[simp] theorem setPs_ps (p : PatternState) : (setPs p s).ps = p := rfl
@[simp] theorem setPs_params (p : PatternState) : (setPs p s).params = s.params := rfl
@[simp] theorem setPs_advInitial (p : PatternState) : (setPs p s).advInitial = s.advInitial := rfl
@[simp] theorem setPs_advDelay (p : PatternState) : (setPs p s).advDelay = s.advDelay := rfl
@[simp] theorem setPs_reply (p : PatternState) : (setPs p s).reply = s.reply := rfl
@[simp] theorem setPs_busErrors (p : PatternState) : (setPs p s).busErrors = s.busErrors := rfl
@[simp] theorem setPs_pending (p : PatternState) : (setPs p s).pending = s.pending := rfl
@[simp] theorem setPs_random (p : PatternState) : (setPs p s).random = s.random := rfl
@[simp] theorem setPs_sinkReady (p : PatternState) : (setPs p s).sinkReady = s.sinkReady := rfl
@[simp] theorem setPs_out (p : PatternState) : (setPs p s).out = s.out := rfl

/-! ## returnDelay -/

@[simp] theorem returnDelay_status (d : Word) : (returnDelay d s).status = s.status := rfl
@[simp] theorem returnDelay_cfgKind (d : Word) : (returnDelay d s).cfgKind = s.cfgKind := rfl
@[simp] theorem returnDelay_cfgColorA (d : Word) : (returnDelay d s).cfgColorA = s.cfgColorA := rfl
@[simp] theorem returnDelay_cfgColorB (d : Word) : (returnDelay d s).cfgColorB = s.cfgColorB := rfl
@[simp] theorem returnDelay_cfgSpeed (d : Word) : (returnDelay d s).cfgSpeed = s.cfgSpeed := rfl
@[simp] theorem returnDelay_actKind (d : Word) : (returnDelay d s).actKind = s.actKind := rfl
@[simp] theorem returnDelay_actColorA (d : Word) : (returnDelay d s).actColorA = s.actColorA := rfl
@[simp] theorem returnDelay_actColorB (d : Word) : (returnDelay d s).actColorB = s.actColorB := rfl
@[simp] theorem returnDelay_actSpeed (d : Word) : (returnDelay d s).actSpeed = s.actSpeed := rfl
@[simp] theorem returnDelay_now (d : Word) : (returnDelay d s).now = s.now := rfl
@[simp] theorem returnDelay_nextDue (d : Word) : (returnDelay d s).nextDue = s.nextDue := rfl
@[simp] theorem returnDelay_lastDelay (d : Word) : (returnDelay d s).lastDelay = s.lastDelay := rfl
@[simp] theorem returnDelay_opa (d : Word) : (returnDelay d s).opa = s.opa := rfl
@[simp] theorem returnDelay_opb (d : Word) : (returnDelay d s).opb = s.opb := rfl
@[simp] theorem returnDelay_res (d : Word) : (returnDelay d s).res = s.res := rfl
@[simp] theorem returnDelay_ps (d : Word) : (returnDelay d s).ps = s.ps := rfl
@[simp] theorem returnDelay_params (d : Word) : (returnDelay d s).params = s.params := rfl
@[simp] theorem returnDelay_advInitial (d : Word) : (returnDelay d s).advInitial = s.advInitial := rfl
@[simp] theorem returnDelay_advDelay (d : Word) : (returnDelay d s).advDelay = d := rfl
@[simp] theorem returnDelay_reply (d : Word) : (returnDelay d s).reply = s.reply := rfl
@[simp] theorem returnDelay_busErrors (d : Word) : (returnDelay d s).busErrors = s.busErrors := rfl
@[simp] theorem returnDelay_pending (d : Word) : (returnDelay d s).pending = s.pending := rfl
@[simp] theorem returnDelay_random (d : Word) : (returnDelay d s).random = s.random := rfl
@[simp] theorem returnDelay_sinkReady (d : Word) : (returnDelay d s).sinkReady = s.sinkReady := rfl
@[simp] theorem returnDelay_out (d : Word) : (returnDelay d s).out = s.out := rfl

/-! ## activate -/

@[simp] theorem activate_status : (activate s).status = s.status := rfl
@[simp] theorem activate_cfgKind : (activate s).cfgKind = s.cfgKind := rfl
@[simp] theorem activate_cfgColorA : (activate s).cfgColorA = s.cfgColorA := rfl
@[simp] theorem activate_cfgColorB : (activate s).cfgColorB = s.cfgColorB := rfl
@[simp] theorem activate_cfgSpeed : (activate s).cfgSpeed = s.cfgSpeed := rfl
@[simp] theorem activate_actKind : (activate s).actKind = s.cfgKind := rfl
@[simp] theorem activate_actColorA : (activate s).actColorA = s.cfgColorA := rfl
@[simp] theorem activate_actColorB : (activate s).actColorB = s.cfgColorB := rfl
@[simp] theorem activate_actSpeed : (activate s).actSpeed = s.cfgSpeed := rfl
@[simp] theorem activate_now : (activate s).now = s.now := rfl
@[simp] theorem activate_nextDue : (activate s).nextDue = 0 := rfl
@[simp] theorem activate_lastDelay : (activate s).lastDelay = s.lastDelay := rfl
@[simp] theorem activate_opa : (activate s).opa = s.opa := rfl
@[simp] theorem activate_opb : (activate s).opb = s.opb := rfl
@[simp] theorem activate_res : (activate s).res = s.res := rfl
@[simp] theorem activate_ps : (activate s).ps = .bot := rfl
@[simp] theorem activate_params : (activate s).params = s.params := rfl
@[simp] theorem activate_advInitial : (activate s).advInitial = s.advInitial := rfl
@[simp] theorem activate_advDelay : (activate s).advDelay = s.advDelay := rfl
@[simp] theorem activate_reply : (activate s).reply = s.reply := rfl
@[simp] theorem activate_busErrors : (activate s).busErrors = s.busErrors := rfl
@[simp] theorem activate_pending : (activate s).pending = s.pending := rfl
@[simp] theorem activate_random : (activate s).random = s.random := rfl
@[simp] theorem activate_sinkReady : (activate s).sinkReady = s.sinkReady := rfl
@[simp] theorem activate_out : (activate s).out = s.out := rfl

/-! ## beforeAdvance -/

@[simp] theorem beforeAdvance_status : (beforeAdvance s).status = s.status := rfl
@[simp] theorem beforeAdvance_cfgKind : (beforeAdvance s).cfgKind = s.cfgKind := rfl
@[simp] theorem beforeAdvance_cfgColorA : (beforeAdvance s).cfgColorA = s.cfgColorA := rfl
@[simp] theorem beforeAdvance_cfgColorB : (beforeAdvance s).cfgColorB = s.cfgColorB := rfl
@[simp] theorem beforeAdvance_cfgSpeed : (beforeAdvance s).cfgSpeed = s.cfgSpeed := rfl
@[simp] theorem beforeAdvance_actKind : (beforeAdvance s).actKind = s.actKind := rfl
@[simp] theorem beforeAdvance_actColorA : (beforeAdvance s).actColorA = s.actColorA := rfl
@[simp] theorem beforeAdvance_actColorB : (beforeAdvance s).actColorB = s.actColorB := rfl
@[simp] theorem beforeAdvance_actSpeed : (beforeAdvance s).actSpeed = s.actSpeed := rfl
@[simp] theorem beforeAdvance_now : (beforeAdvance s).now = s.now := rfl
@[simp] theorem beforeAdvance_nextDue : (beforeAdvance s).nextDue = dueTime s := rfl
@[simp] theorem beforeAdvance_lastDelay : (beforeAdvance s).lastDelay = s.lastDelay := rfl
@[simp] theorem beforeAdvance_opa : (beforeAdvance s).opa = s.opa := rfl
@[simp] theorem beforeAdvance_opb : (beforeAdvance s).opb = s.opb := rfl
@[simp] theorem beforeAdvance_res : (beforeAdvance s).res = s.res := rfl
@[simp] theorem beforeAdvance_ps : (beforeAdvance s).ps = s.ps := rfl
@[simp] theorem beforeAdvance_params : (beforeAdvance s).params = s.params := rfl
@[simp] theorem beforeAdvance_advInitial : (beforeAdvance s).advInitial = (s.nextDue == 0) := rfl
@[simp] theorem beforeAdvance_advDelay : (beforeAdvance s).advDelay = s.advDelay := rfl
@[simp] theorem beforeAdvance_reply : (beforeAdvance s).reply = s.reply := rfl
@[simp] theorem beforeAdvance_busErrors : (beforeAdvance s).busErrors = s.busErrors := rfl
@[simp] theorem beforeAdvance_pending : (beforeAdvance s).pending = s.pending := rfl
@[simp] theorem beforeAdvance_random : (beforeAdvance s).random = s.random := rfl
@[simp] theorem beforeAdvance_sinkReady : (beforeAdvance s).sinkReady = s.sinkReady := rfl
@[simp] theorem beforeAdvance_out : (beforeAdvance s).out = s.out := rfl

/-! ## schedule -/

@[simp] theorem schedule_status : (schedule s).status = s.status := rfl
@[simp] theorem schedule_cfgKind : (schedule s).cfgKind = s.cfgKind := rfl
@[simp] theorem schedule_cfgColorA : (schedule s).cfgColorA = s.cfgColorA := rfl
@[simp] theorem schedule_cfgColorB : (schedule s).cfgColorB = s.cfgColorB := rfl
@[simp] theorem schedule_cfgSpeed : (schedule s).cfgSpeed = s.cfgSpeed := rfl
@[simp] theorem schedule_actKind : (schedule s).actKind = s.actKind := rfl
@[simp] theorem schedule_actColorA : (schedule s).actColorA = s.actColorA := rfl
@[simp] theorem schedule_actColorB : (schedule s).actColorB = s.actColorB := rfl
@[simp] theorem schedule_actSpeed : (schedule s).actSpeed = s.actSpeed := rfl
@[simp] theorem schedule_now : (schedule s).now = s.now := rfl
@[simp] theorem schedule_nextDue : (schedule s).nextDue = s.nextDue + s.advDelay := rfl
@[simp] theorem schedule_lastDelay : (schedule s).lastDelay = s.advDelay := rfl
@[simp] theorem schedule_opa : (schedule s).opa = s.opa := rfl
@[simp] theorem schedule_opb : (schedule s).opb = s.opb := rfl
@[simp] theorem schedule_res : (schedule s).res = s.res := rfl
@[simp] theorem schedule_ps : (schedule s).ps = s.ps := rfl
@[simp] theorem schedule_params : (schedule s).params = s.params := rfl
@[simp] theorem schedule_advInitial : (schedule s).advInitial = s.advInitial := rfl
@[simp] theorem schedule_advDelay : (schedule s).advDelay = s.advDelay := rfl
@[simp] theorem schedule_reply : (schedule s).reply = s.reply := rfl
@[simp] theorem schedule_busErrors : (schedule s).busErrors = s.busErrors := rfl
@[simp] theorem schedule_pending : (schedule s).pending = s.pending := rfl
@[simp] theorem schedule_random : (schedule s).random = s.random := rfl
@[simp] theorem schedule_sinkReady : (schedule s).sinkReady = s.sinkReady := rfl
@[simp] theorem schedule_out : (schedule s).out = s.out := rfl

end Sys2Proof.Machine
end

