-- ==== Sys2Proof/Laws/Ops.lean ====
section
/-! SUPPORT. What each shared operation can do: draws, expansion, frames, status, outcomes, the register map. -/

namespace Sys2Proof.Machine

/-! ## The Random source -/

theorem intoRange_mem {lo hi : Nat} (v : Nat) (h : lo ≤ hi) : lo ≤ intoRange lo hi v ∧ intoRange lo hi v ≤ hi := by
  unfold intoRange
  split
  · assumption
  · have := Nat.mod_lt v (show 0 < hi - lo + 1 by omega)
    omega

theorem intoRange_of_mem {lo hi v : Nat} (h : lo ≤ v) (h' : v ≤ hi) : intoRange lo hi v = v := by
  simp [intoRange, h, h']

/-- A request whose range is not empty (00_scope R12: lo ≤ hi). -/
abbrev Askable (q : DrawRequest) : Prop := requestLo q ≤ requestHi q

theorem nextAnswer_mem {q : DrawRequest} (p : RandomPort) (h : Askable q) :
    requestLo q ≤ nextAnswer q p ∧ nextAnswer q p ≤ requestHi q := intoRange_mem _ h

theorem nextAnswer_queued {q : DrawRequest} {p : RandomPort} {v : Nat} {rest : List Nat} (h : p.queued = v :: rest)
    (hlo : requestLo q ≤ v) (hhi : v ≤ requestHi q) : nextAnswer q p = v := by
  simp [nextAnswer, h, intoRange_of_mem hlo hhi]

/-- The ports whose draws all lie in their ranges (R125). -/
abbrev PortLegal (p : RandomPort) : Prop := p.asked.all drawLegal = true

theorem ask_portLegal {q : DrawRequest} {p : RandomPort} (h : Askable q) (hp : PortLegal p) :
    PortLegal (ask q p).2 := by
  have := nextAnswer_mem p h
  simp only [PortLegal, ask, List.all_append, hp, Bool.true_and, List.all_cons, List.all_nil, Bool.and_true]
  simp [drawLegal, this]

theorem askable_draw7 : Askable .draw7 := by decide
theorem askable_drawBit : Askable .drawBit := by decide

theorem askThree_spec {q : DrawRequest} (p : RandomPort) (h : Askable q) :
    ∃ a b c, askThree q p = ((a, b, c), ⟨p.queued.drop 3, p.asked ++ [⟨q, a⟩, ⟨q, b⟩, ⟨q, c⟩]⟩) ∧
      a ≤ requestHi q ∧ b ≤ requestHi q ∧ c ≤ requestHi q := by
  refine ⟨_, _, _, ?_, (nextAnswer_mem p h).2, (nextAnswer_mem (ask q p).2 h).2,
    (nextAnswer_mem (ask q (ask q p).2).2 h).2⟩
  simp [askThree, ask, List.append_assoc, ← List.drop_one, List.drop_drop]

/-- `expand` of a word that is no sentinel (40_color_math R124, R134). -/
theorem expand_plain {c : Color} (p : RandomPort) (h : c ≠ randomColor) (h' : c ≠ randomPrimaryColor) :
    expand c p = (c, p) := by simp [expand, h, h']

/-- `expand` of RANDOM: three Draw7 requests, red first (R124, R134). -/
theorem expand_random (p : RandomPort) :
    ∃ r g b, r ≤ 127 ∧ g ≤ 127 ∧ b ≤ 127 ∧
      expand randomColor p = (rgb (BitVec.ofNat 8 r) (BitVec.ofNat 8 g) (BitVec.ofNat 8 b),
        ⟨p.queued.drop 3, p.asked ++ [⟨.draw7, r⟩, ⟨.draw7, g⟩, ⟨.draw7, b⟩]⟩) := by
  obtain ⟨r, g, b, h, hr, hg, hb⟩ := askThree_spec p askable_draw7
  exact ⟨r, g, b, hr, hg, hb, by simp [expand, h]⟩

/-- `expand` of RANDOM_PRIMARY: three DrawBit requests, red first (R124, R134). -/
theorem expand_primary (p : RandomPort) :
    ∃ r g b, r ≤ 1 ∧ g ≤ 1 ∧ b ≤ 1 ∧
      expand randomPrimaryColor p = (rgb (BitVec.ofNat 8 (127 * r)) (BitVec.ofNat 8 (127 * g)) (BitVec.ofNat 8 (127 * b)),
        ⟨p.queued.drop 3, p.asked ++ [⟨.drawBit, r⟩, ⟨.drawBit, g⟩, ⟨.drawBit, b⟩]⟩) := by
  obtain ⟨r, g, b, h, hr, hg, hb⟩ := askThree_spec p askable_drawBit
  have hne : ¬ randomPrimaryColor = randomColor := by decide
  exact ⟨r, g, b, hr, hg, hb, by simp [expand, hne, h]⟩

/-- What `expand` can do, by the class of its argument (R124). -/
theorem expand_cases (c : Color) (p : RandomPort) :
    (c ≠ randomColor ∧ c ≠ randomPrimaryColor ∧ expand c p = (c, p)) ∨
    (c = randomColor ∧ ∃ r g b, r ≤ 127 ∧ g ≤ 127 ∧ b ≤ 127 ∧
      expand c p = (rgb (BitVec.ofNat 8 r) (BitVec.ofNat 8 g) (BitVec.ofNat 8 b),
        ⟨p.queued.drop 3, p.asked ++ [⟨.draw7, r⟩, ⟨.draw7, g⟩, ⟨.draw7, b⟩]⟩)) ∨
    (c = randomPrimaryColor ∧ ∃ r g b, r ≤ 1 ∧ g ≤ 1 ∧ b ≤ 1 ∧
      expand c p = (rgb (BitVec.ofNat 8 (127 * r)) (BitVec.ofNat 8 (127 * g)) (BitVec.ofNat 8 (127 * b)),
        ⟨p.queued.drop 3, p.asked ++ [⟨.drawBit, r⟩, ⟨.drawBit, g⟩, ⟨.drawBit, b⟩]⟩)) := by
  by_cases h : c = randomColor
  · subst h; exact .inr (.inl ⟨rfl, expand_random p⟩)
  · by_cases h' : c = randomPrimaryColor
    · subst h'; exact .inr (.inr ⟨rfl, expand_primary p⟩)
    · exact .inl ⟨h, h', expand_plain p h h'⟩

theorem rgb_ofNat_concrete {r g b : Nat} (hr : r ≤ 127) (hg : g ≤ 127) (hb : b ≤ 127) :
    isConcrete (rgb (BitVec.ofNat 8 r) (BitVec.ofNat 8 g) (BitVec.ofNat 8 b)) = true := by
  rw [isConcrete_iff]
  simp only [red_rgb, green_rgb, blue_rgb, BitVec.toNat_ofNat]
  omega

/-- Expansion of a valid colour is concrete (R132). -/
theorem expand_concrete {c : Color} (p : RandomPort) (h : isValid c = true) : isConcrete (expand c p).1 = true := by
  rcases expand_cases c p with ⟨h1, h2, he⟩ | ⟨_, r, g, b, hr, hg, hb, he⟩ | ⟨_, r, g, b, hr, hg, hb, he⟩
  · rw [he]; simpa [isValid, h1, h2] using h
  · rw [he]; exact rgb_ofNat_concrete hr hg hb
  · rw [he]; exact rgb_ofNat_concrete (by omega) (by omega) (by omega)

/-- Expansion keeps the answers in their ranges (R125). -/
theorem expand_portLegal (c : Color) {p : RandomPort} (h : PortLegal p) : PortLegal (expand c p).2 := by
  rcases expand_cases c p with ⟨_, _, he⟩ | ⟨_, r, g, b, hr, hg, hb, he⟩ | ⟨_, r, g, b, hr, hg, hb, he⟩ <;> rw [he]
  · exact h
  · simp [PortLegal, h, drawLegal, requestLo, requestHi, hr, hg, hb]
  · simp [PortLegal, h, drawLegal, requestLo, requestHi, hr, hg, hb]

/-! ## Frames -/

theorem wholeFrames_pixels {P : Nat} {cs : List Color} (hc : ∀ c ∈ cs, isConcrete c = true) (es : List Event)
    (seen : Nat) (h : seen + cs.length = P) :
    wholeFrames P seen (cs.map .pixel ++ .latch :: es) = wholeFrames P 0 es := by
  induction cs generalizing seen with
  | nil => simp at h; simp [wholeFrames, h]
  | cons c cs ih =>
    simp only [List.length_cons] at h
    simp only [List.map_cons, List.cons_append, wholeFrames, hc c (by simp), Bool.true_and]
    rw [ih (fun c h => hc c (by simp [h])) (seen + 1) (by omega)]
    simp; omega

theorem wholeFrames_append {P : Nat} {cs : List Color} (hc : ∀ c ∈ cs, isConcrete c = true) (hl : cs.length = P) :
    ∀ (es : List Event) (seen : Nat), wholeFrames P seen es = true →
      wholeFrames P seen (es ++ frameOf cs) = true
  | [], seen, h => by
    simp [wholeFrames] at h
    subst h
    simpa [frameOf, wholeFrames] using wholeFrames_pixels hc [] 0 (by omega)
  | .pixel c :: es, seen, h => by
    simp [wholeFrames] at h ⊢
    exact ⟨h.1, wholeFrames_append hc hl es (seen + 1) h.2⟩
  | .latch :: es, seen, h => by
    simp [wholeFrames] at h ⊢
    exact ⟨h.1, wholeFrames_append hc hl es 0 h.2⟩

/-! ## Status -/

@[simp] theorem errOf_statusWord (i r : Bool) (e : BitVec 4) : errOf (statusWord i r e) = e := by
  revert e; cases i <;> cases r <;> decide
@[simp] theorem ranOf_statusWord (i r : Bool) (e : BitVec 4) : ranOf (statusWord i r e) = r := by
  revert e; cases i <;> cases r <;> decide
@[simp] theorem initOf_statusWord (i r : Bool) (e : BitVec 4) : initOf (statusWord i r e) = i := by
  revert e; cases i <;> cases r <;> decide
theorem status_ext {a b : BitVec 6} (he : errOf a = errOf b) (hr : ranOf a = ranOf b) (hi : initOf a = initOf b) :
    a = b := by
  have eta : ∀ st : BitVec 6, statusWord (initOf st) (ranOf st) (errOf st) = st := by decide
  rw [← eta a, ← eta b, he, hr, hi]

@[simp] theorem errOf_withErr (c : ResultCode) (st : BitVec 6) : errOf (withErr c st) = codeValue c := by simp [withErr]
@[simp] theorem ranOf_withErr (c : ResultCode) (st : BitVec 6) : ranOf (withErr c st) = ranOf st := by simp [withErr]
@[simp] theorem initOf_withErr (c : ResultCode) (st : BitVec 6) : initOf (withErr c st) = initOf st := by simp [withErr]
@[simp] theorem errOf_withTickFlags (r i : Bool) (st : BitVec 6) : errOf (withTickFlags r i st) = errOf st := by
  simp [withTickFlags]
@[simp] theorem ranOf_withTickFlags (r i : Bool) (st : BitVec 6) : ranOf (withTickFlags r i st) = r := by
  simp [withTickFlags]
@[simp] theorem initOf_withTickFlags (r i : Bool) (st : BitVec 6) : initOf (withTickFlags r i st) = i := by
  simp [withTickFlags]

/-! ## Outcomes -/

theorem thenUpdate_next {o : Host.Outcome State Fault Refusal} {f : State → State} {t : State} :
    thenUpdate o f = .next t ↔ ∃ u, o = .next u ∧ t = f u := by
  cases o <;> simp [thenUpdate, eq_comm]

theorem holdForSink_next {s t : State} {o : Host.Outcome State Fault Refusal} (h : holdForSink s o = .next t) :
    t = s ∨ o = .next t := by
  cases o with
  | next u =>
    simp only [holdForSink] at h
    split at h
    · exact .inr h
    · split at h
      · exact .inr h
      · exact .inl (by injection h with h; exact h.symm)
  | fault r => simp [holdForSink] at h
  | refused r => simp [holdForSink] at h

theorem holdForSink_ready {s : State} (o : Host.Outcome State Fault Refusal) (h : s.sinkReady = true) :
    holdForSink s o = o := by
  cases o <;> simp [holdForSink, h]

/-! ## The register map -/

theorem regAt_offsetOf (r : HostReg) : regAt (offsetOf r) = some r := by cases r <;> decide

theorem regAt_some {off : Offset} {r : HostReg} (h : regAt off = some r) : off = offsetOf r := by
  exact (beq_iff_eq.mp (List.find?_some (p := fun r => offsetOf r == off) h)).symm

end Sys2Proof.Machine
end

