-- ==== Sys2Proof/Laws/Patterns.lean ====
section
/-! SUPPORT. What each advance, each of its parts, and the dispatch of TICK can do. -/

namespace Sys2Proof.Machine

/-- What any advance can do (41_patterns R150): it writes `ps`, draws, returns a delay, and emits nothing or one frame. -/
abbrev AdvEffect (s t : State) : Prop :=
  ∃ p r d es, t = { s with ps := p, random := r, advDelay := d, out := s.out ++ es } ∧
    (es = [] ∨ ∃ cs : List Color, cs.length = s.params.pixels ∧ es = frameOf cs)

theorem advEffect_frame (s : State) (p : PatternState) (r : RandomPort) (d : Word) {cs : List Color}
    (h : cs.length = s.params.pixels) : AdvEffect s (returnDelay d (drawFrame cs (setPs p (setRandom r s)))) :=
  ⟨p, r, d, frameOf cs, rfl, .inr ⟨cs, h, rfl⟩⟩

/-! ## SOLID -/

theorem execAdvSolid_effect {s t : State} (h : execAdvSolid s = .next t) : AdvEffect s t := by
  unfold execAdvSolid at h
  injection h with h
  subst h
  exact advEffect_frame s _ _ _ (by simp)

/-! ## PULSE -/

theorem execAdvPulse_of_entry {s : State} {p : PulseState} {r : RandomPort} (h : pulseEntry s = some (p, r)) :
    execAdvPulse s = .next (returnDelay (BitVec.ofNat 32 (s.actSpeed.toNat / 127))
      (drawSolid (mix p.left p.right p.count) (setPs (.pulse (pulseStep s.actColorA s.actColorB p r).1)
        (setRandom (pulseStep s.actColorA s.actColorB p r).2 s)))) := by
  unfold execAdvPulse
  rw [h]

theorem execAdvPulse_next {s t : State} (h : execAdvPulse s = .next t) : ∃ p r, pulseEntry s = some (p, r) := by
  unfold execAdvPulse at h
  split at h
  · cases h
  · next p r he => exact ⟨p, r, he⟩

theorem execAdvPulse_effect {s t : State} (h : execAdvPulse s = .next t) : AdvEffect s t := by
  obtain ⟨p, r, he⟩ := execAdvPulse_next h
  rw [execAdvPulse_of_entry he] at h
  injection h with h
  subst h
  exact advEffect_frame s _ _ _ (by simp)

/-- The counter after one step: the next value in the current direction, which turns exactly at 127 and at 0 (R153). -/
theorem pulseStep_count (a b : Color) (p : PulseState) (r : RandomPort) :
    (pulseStep a b p r).1.count = (if p.up then p.count + 1 else p.count - 1) ∧
    (pulseStep a b p r).1.up = (if p.up then !decide (p.count + 1 = 127) else decide (p.count - 1 = 0)) := by
  unfold pulseStep
  by_cases hu : p.up = true
  · by_cases hc : p.count + 1 = 127 <;> simp only [hu, hc, if_true, if_false, decide_true, decide_false] <;> simp
  · rw [Bool.not_eq_true] at hu
    by_cases hc : p.count - 1 = 0 <;>
      simp only [hu, hc, if_true, if_false, decide_true, decide_false, Bool.false_eq_true] <;> simp

/-! ## CYLON -/

theorem execAdvCylon_of_entry {s : State} {p : CylonState} {r : RandomPort} (h : cylonEntry s = some (p, r)) :
    execAdvCylon s = .next (returnDelay (cylonDelay s.params.pixels s.actSpeed p)
      (drawFrame ((List.range s.params.pixels).map (cylonPixel s.params.cylonEdgeN p))
        (setPs (.cylon (cylonStep s.params.pixels s.actColorA s.actColorB p r).1)
          (setRandom (cylonStep s.params.pixels s.actColorA s.actColorB p r).2 s)))) := by
  unfold execAdvCylon
  rw [h]

theorem execAdvCylon_next {s t : State} (h : execAdvCylon s = .next t) : ∃ p r, cylonEntry s = some (p, r) := by
  unfold execAdvCylon at h
  split at h
  · cases h
  · next p r he => exact ⟨p, r, he⟩

theorem execAdvCylon_effect {s t : State} (h : execAdvCylon s = .next t) : AdvEffect s t := by
  obtain ⟨p, r, he⟩ := execAdvCylon_next h
  rw [execAdvCylon_of_entry he] at h
  injection h with h
  subst h
  exact advEffect_frame s _ _ _ (by simp)

/-- When the eye bounces: at pixel 0 going down, at pixel P-1 going up (R155). -/
theorem cylonBounces_iff {pixels : Nat} {p : CylonState} (h : p.pos.toNat < pixels) :
    cylonBounces pixels p = true ↔ (p.down = true ∧ p.pos.toNat = 0) ∨ (p.down = false ∧ p.pos.toNat + 1 = pixels) := by
  unfold cylonBounces offStrip cylonNext
  cases p.down <;> simp <;> omega

/-- The position after a bounce (R155). -/
theorem cylonTurned_eq {pixels : Nat} {p : CylonState} (hb : cylonBounces pixels p = true) (h : p.pos.toNat < pixels) :
    cylonTurned pixels p =
      if pixels = 1 then 0 else if p.down then 1 else (p.pos.toNat : Int) - 1 := by
  rw [cylonBounces_iff h] at hb
  unfold cylonTurned offStrip cylonNext
  rcases hb with ⟨hd, hp⟩ | ⟨hd, hp⟩
  · simp only [hd, Bool.not_true, Bool.false_eq_true, if_false, if_true, hp]
    by_cases h1 : pixels = 1
    · subst h1; simp
    · simp [h1]; omega
  · simp only [hd, Bool.not_false, Bool.false_eq_true, if_false, if_true]
    by_cases h1 : pixels = 1
    · subst h1; simp; omega
    · simp [h1]; omega

/-! ## ALTERNATE -/

theorem execAdvAlternate_of_entry {s : State} {phase : Bool} (h : alternateEntry s = some phase) :
    execAdvAlternate s = .next (returnDelay s.actSpeed
      (drawFrame ((List.range s.params.pixels).map (alternatePixel phase (expand s.actColorA s.random).1
          (expand s.actColorB (expand s.actColorA s.random).2).1))
        (setPs (.alternate (!phase)) (setRandom (expand s.actColorB (expand s.actColorA s.random).2).2 s)))) := by
  unfold execAdvAlternate
  rw [h]

theorem execAdvAlternate_next {s t : State} (h : execAdvAlternate s = .next t) : ∃ phase, alternateEntry s = some phase := by
  unfold execAdvAlternate at h
  split at h
  · cases h
  · next p he => exact ⟨p, he⟩

theorem execAdvAlternate_effect {s t : State} (h : execAdvAlternate s = .next t) : AdvEffect s t := by
  obtain ⟨p, he⟩ := execAdvAlternate_next h
  rw [execAdvAlternate_of_entry he] at h
  injection h with h
  subst h
  exact advEffect_frame s _ _ _ (by simp)

/-! ## FLICKER -/

theorem flickerContinue_flip {p : FlickerState} {s : State} {d : Nat × RandomPort} {n : FlickerState × RandomPort}
    (hd : ask (.drawRange 0 2) s.random = d) (hn : flickerWalk s.actColorA s.actColorB s.actSpeed d.1 p d.2 = n) :
    flickerContinue p s = { s with
      ps := .flicker { n.1 with showOn := flickerShows s.actSpeed n.1.weight }, random := n.2,
      out := s.out ++ if flickerShows s.actSpeed n.1.weight = p.showOn then []
        else frameOf (List.replicate s.params.pixels
          (if flickerShows s.actSpeed n.1.weight then n.1.on else n.1.off)) } := by
  unfold flickerContinue
  simp only [hd, hn]
  split
  · simp only [setPs, setRandom, List.append_nil]
  · rfl

theorem execAdvFlicker_effect {s t : State} (h : execAdvFlicker s = .next t) : AdvEffect s t := by
  unfold execAdvFlicker at h
  split at h
  · injection h with h
    subst h
    exact advEffect_frame s _ _ _ (by simp)
  · split at h
    · next p _ =>
      injection h with h
      subst h
      rw [flickerContinue_flip rfl rfl]
      refine ⟨_, _, _, _, rfl, ?_⟩
      split
      · exact .inl rfl
      · exact .inr ⟨_, by simp, rfl⟩
    · cases h

/-- The three cases of the weight walk from a weight within [0, spd] (R160). -/
theorem flickerWalk_cases (a b : Color) {speed : Word} {d : Nat} {p : FlickerState} (r : RandomPort)
    (hw : p.weight.toNat ≤ speed.toNat) (hd : d ≤ 2) :
    (p.weight.toNat + d = 0 → flickerWalk a b speed d p r = ({ p with weight := 0, on := (expand a r).1 }, (expand a r).2)) ∧
    (p.weight.toNat + d = speed.toNat + 2 →
      flickerWalk a b speed d p r = ({ p with weight := speed, off := (expand b r).1 }, (expand b r).2)) ∧
    (1 ≤ p.weight.toNat + d → p.weight.toNat + d ≤ speed.toNat + 1 →
      flickerWalk a b speed d p r = ({ p with weight := BitVec.ofNat 32 (p.weight.toNat + d - 1) }, r)) := by
  have := speed.isLt
  refine ⟨fun h => ?_, fun h => ?_, fun h h' => ?_⟩
  · unfold flickerWalk
    rw [if_pos (by omega)]
  · unfold flickerWalk
    rw [if_neg (by omega), if_pos (by omega)]
  · unfold flickerWalk
    rw [if_neg (by omega), if_neg (by omega)]
    have e : (p.weight.toNat : Int) + ((d : Int) - 1) = ((p.weight.toNat + d - 1 : Nat) : Int) := by omega
    rw [e, BitVec.ofInt_natCast]

/-! ## LAVA -/

theorem execAdvLava_of_entry {s : State} {p : LavaState} {r : RandomPort} (h : lavaEntry s = some (p, r)) :
    execAdvLava s = .next (returnDelay 10
      (drawFrame (lavaBuffer s.params.pixels p.background (stepBlobs s.params s.actColorA p.blobs r).1 p.buf)
        (setPs (.lava { background := p.background,
                        buf := lavaBuffer s.params.pixels p.background (stepBlobs s.params s.actColorA p.blobs r).1 p.buf,
                        blobs := (stepBlobs s.params s.actColorA p.blobs r).1 })
          (setRandom (stepBlobs s.params s.actColorA p.blobs r).2 s)))) := by
  unfold execAdvLava
  rw [h]

theorem execAdvLava_next {s t : State} (h : execAdvLava s = .next t) : ∃ p r, lavaEntry s = some (p, r) := by
  unfold execAdvLava at h
  split at h
  · cases h
  · next p r he => exact ⟨p, r, he⟩

@[simp] theorem paintBlob_length (pixels : Nat) (buf : List Color) (b : Blob) :
    (paintBlob pixels buf b).length = buf.length := by
  unfold paintBlob
  split <;> simp

/-- The strip keeps its length (R53). -/
@[simp] theorem lavaBuffer_length (pixels : Nat) (g : Color) (blobs : List Blob) (buf : List Color) :
    (lavaBuffer pixels g blobs buf).length = buf.length := by
  unfold lavaBuffer
  have : ∀ (bs : List Blob) (l : List Color), (bs.foldl (paintBlob pixels) l).length = l.length := by
    intro bs
    induction bs with
    | nil => simp
    | cons b bs ih => intro l; simp [ih]
  simp [this]

@[simp] theorem initialBlobs_length (m n : Nat) (p : RandomPort) : (initialBlobs m n p).1.length = n := by
  induction n generalizing p with
  | zero => rfl
  | succ n ih => simp [initialBlobs, ih]

/-- What the countdown draws of an initial advance do (R170): one answer in range for each blob, all inactive. -/
theorem initialBlobs_spec {m : Nat} (hm : 1 ≤ m) (n : Nat) (p : RandomPort) :
    ∃ cds : List Nat, cds.length = n ∧ (∀ c ∈ cds, 1 ≤ c ∧ c ≤ m) ∧
      initialBlobs m n p =
        (cds.map fun c => { countdown := BitVec.ofNat 32 c, life := .unborn },
         { queued := p.queued.drop n, asked := p.asked ++ cds.map fun c => ⟨.drawRange 1 m, c⟩ }) := by
  induction n generalizing p with
  | zero => exact ⟨[], by simp [initialBlobs]⟩
  | succ n ih =>
    have h := nextAnswer_mem p (q := .drawRange 1 m) hm
    obtain ⟨cds, h1, h2, h3⟩ := ih (ask (.drawRange 1 m) p).2
    refine ⟨nextAnswer (.drawRange 1 m) p :: cds, by simp [h1], ?_, ?_⟩
    · simpa using ⟨h, h2⟩
    · simp [initialBlobs, h3]
      simp [ask]

@[simp] theorem stepBlobs_length (params : Params) (a : Color) (bs : List Blob) (r : RandomPort) :
    (stepBlobs params a bs r).1.length = bs.length := by
  induction bs generalizing r with
  | nil => rfl
  | cons b bs ih => simp [stepBlobs, ih]

/-- The state an advance of LAVA starts from has P buffer entries and NB blobs (R53, R54). -/
theorem lavaEntry_lengths {s : State} {p : LavaState} {r : RandomPort} (h : lavaEntry s = some (p, r)) :
    p.buf.length = s.params.pixels ∧ p.blobs.length = s.params.nblobs := by
  unfold lavaEntry at h
  split at h
  · simp only [Option.some.injEq, Prod.mk.injEq] at h
    obtain ⟨rfl, -⟩ := h
    simp
  · split at h
    · split at h
      · next hl =>
        simp only [Option.some.injEq, Prod.mk.injEq] at h
        obtain ⟨rfl, -⟩ := h
        exact hl
      · cases h
    · cases h

theorem execAdvLava_effect {s t : State} (h : execAdvLava s = .next t) : AdvEffect s t := by
  obtain ⟨p, r, he⟩ := execAdvLava_next h
  rw [execAdvLava_of_entry he] at h
  injection h with h
  subst h
  exact advEffect_frame s _ _ _ (by simp [(lavaEntry_lengths he).1])

/-- What one `blob_step` can do, and the port after it (R171 to R173). -/
theorem blobStep_cases (params : Params) (a : Color) (b : Blob) (r : RandomPort) :
    (b.countdown ≠ 1 ∧ blobStep params a b r = ({ b with countdown := b.countdown - 1 }, r)) ∨
    (b.countdown = 1 ∧ (∃ spot, b.life = .active spot ∧ blobStep params a b r = despawn params spot r)) ∨
    (b.countdown = 1 ∧ (∀ spot, b.life ≠ .active spot) ∧ blobStep params a b r = spawn params a r) := by
  have hz : b.countdown - 1 = 0 ↔ b.countdown = 1 := by
    constructor
    · intro h; have := congrArg BitVec.toNat h; apply BitVec.eq_of_toNat_eq; have := b.countdown.isLt; simp at *; omega
    · intro h; rw [h]; rfl
  unfold blobStep
  by_cases h : b.countdown = 1
  · rw [if_pos (hz.2 h)]
    cases hl : b.life with
    | active spot => exact .inr (.inl ⟨h, spot, rfl, rfl⟩)
    | inactive spot => exact .inr (.inr ⟨h, by simp, rfl⟩)
    | unborn => exact .inr (.inr ⟨h, by simp, rfl⟩)
  · rw [if_neg (fun hh => h (hz.1 hh))]
    exact .inl ⟨h, rfl⟩

/-- What `spawn` writes (R172): a position and a radius on the strip, a duration in [1, LAVA_ON_MAX], the colour last. -/
theorem spawn_spec (params : Params) (a : Color) (r : RandomPort) :
    ∃ pos rad dur : Nat, pos < params.pixels ∧ rad < params.pixels ∧ 1 ≤ dur ∧ dur ≤ params.lavaOnMax ∧
      let p : RandomPort := ⟨r.queued.drop 3, r.asked ++ [⟨.drawRange 0 (params.pixels - 1), pos⟩,
        ⟨.drawRange 0 (params.pixels - 1), rad⟩, ⟨.drawRange 1 params.lavaOnMax, dur⟩]⟩
      spawn params a r =
        ({ countdown := BitVec.ofNat 32 dur,
           life := .active { bpos := BitVec.ofNat 16 pos, radius := BitVec.ofNat 16 rad, color := (expand a p).1 } },
          (expand a p).2) := by
  have hp : Askable (.drawRange 0 (params.pixels - 1)) := Nat.zero_le _
  have hd : Askable (.drawRange 1 params.lavaOnMax) := params.lavaOnMax_pos
  have h1 := nextAnswer_mem r hp
  have h2 := nextAnswer_mem (ask (.drawRange 0 (params.pixels - 1)) r).2 hp
  have h3 := nextAnswer_mem (ask (.drawRange 0 (params.pixels - 1)) (ask (.drawRange 0 (params.pixels - 1)) r).2).2 hd
  simp only [requestLo, requestHi] at h1 h2 h3
  have := params.pixels_pos
  refine ⟨_, _, _, Nat.lt_of_le_of_lt h1.2 (by omega), Nat.lt_of_le_of_lt h2.2 (by omega), h3.1, h3.2, ?_⟩
  simp [spawn, ask, List.append_assoc, ← List.drop_one, List.drop_drop]

/-- What `despawn` writes (R173): a waiting time in [1, LAVA_OFF_MAX]. -/
theorem despawn_spec (params : Params) (spot : Spot) (r : RandomPort) :
    ∃ wait : Nat, 1 ≤ wait ∧ wait ≤ params.lavaOffMax ∧
      despawn params spot r = ({ countdown := BitVec.ofNat 32 wait, life := .inactive spot },
        ⟨r.queued.drop 1, r.asked ++ [⟨.drawRange 1 params.lavaOffMax, wait⟩]⟩) := by
  have h := nextAnswer_mem r (q := .drawRange 1 params.lavaOffMax) params.lavaOffMax_pos
  exact ⟨_, h.1, h.2, by simp [despawn, ask]⟩

/-! ## The dispatch -/

/-- What the advance that a TICK selects can do (R98, R150). -/
theorem advance_effect {s t : State} (h : advance s = .next t) : AdvEffect s t := by
  unfold advance at h
  split at h
  · exact execAdvSolid_effect h
  · exact execAdvPulse_effect h
  · exact execAdvCylon_effect h
  · exact execAdvAlternate_effect h
  · exact execAdvFlicker_effect h
  · exact execAdvLava_effect h
  · cases h

theorem advance_eq {s : State} {k : Kind} (h : decodeKind s.actKind = some k) : advance s = exec k.toInstr s := by
  unfold advance
  rw [h]
  cases k <;> rfl

theorem execTick_due {s : State} (h : isDue s = true) :
    execTick s = thenUpdate (advance (beforeAdvance s)) fun t =>
      cmdResult .ok (setTickFlags true (s.nextDue == 0) (schedule t)) := by
  unfold execTick
  rw [if_pos h]

theorem execTick_notDue {s : State} (h : isDue s = false) :
    execTick s = .next (cmdResult .ok (setTickFlags false false s)) := by
  unfold execTick
  rw [if_neg (by simp [h])]

theorem isDue_initial {s : State} (h : s.nextDue = 0) : isDue s = true := by simp [isDue, dueTime, h]

theorem isDue_later {s : State} (h : s.nextDue ≠ 0) : isDue s = true ↔ s.nextDue.toNat ≤ s.now.toNat := by
  rw [isDue, dueTime, if_neg h]; simp [BitVec.lt_def]

end Sys2Proof.Machine
end

