-- ==== Sys2Proof/Laws/PerInstr.lean ====
section
/-! SUPPORT. Statements made per instruction: the round trip of decode and encode. -/

namespace Sys2Proof.Laws.RoundTrip

/-- Decoding the word of a well-formed instruction gives it back (30_encoding R90 to R92, R98). -/
def Statement (i : Instr) : Prop := i.wf = true → decode (encode i) = .ok i

theorem nop : Statement .nop := fun _ => by decide
theorem setpat : Statement .setpat := fun _ => by decide
theorem tick : Statement .tick := fun _ => by decide
theorem mix (n : Ratio) : Statement (.mix n) := fun _ => by
  have h : decodeCmd (Command.word (.mix n)) = .ok (.mix n) := by
    rw [decodeCmd_ok]; simp [Command.word, commandOf]
  simp [decode, encode, h, Except.map, Command.toInstr]
theorem dim (n : Ratio) : Statement (.dim n) := fun _ => by
  have h : decodeCmd (Command.word (.dim n)) = .ok (.dim n) := by
    rw [decodeCmd_ok]; simp [Command.word, commandOf]
  simp [decode, encode, h, Except.map, Command.toInstr]
theorem morph : Statement .morph := fun _ => by decide
theorem expand : Statement .expand := fun _ => by decide
theorem parse : Statement .parse := fun _ => by decide
theorem rd (off : Offset) : Statement (.rd off) := fun h => by
  simp only [decode, encode]; exact decodeBus_read h
theorem wr (off : Offset) (data : Word) : Statement (.wr off data) := fun h => by
  simp only [decode, encode]; exact decodeBus_write data h
theorem advSolid : Statement .advSolid := fun _ => by decide
theorem advPulse : Statement .advPulse := fun _ => by decide
theorem advCylon : Statement .advCylon := fun _ => by decide
theorem advAlternate : Statement .advAlternate := fun _ => by decide
theorem advFlicker : Statement .advFlicker := fun _ => by decide
theorem advLava : Statement .advLava := fun _ => by decide

end Sys2Proof.Laws.RoundTrip
end

