-- ==== Sys2Proof/Laws/Step.lean ====
section
/-! SUPPORT. What the fetch, the transactions, SETPAT, TICK and one step can do. -/

namespace Sys2Proof.Machine

/-! ## The fetch of a transaction -/

/-- An aligned transaction of size 4 is its read or its write (30_encoding R90). -/
theorem fetch_aligned (x : Transaction) (h : x.size = 4) (ha : Offset.aligned x.off = true) :
    fetch x = some (match x.op with | .read => .rd x.off | .write d => .wr x.off d) := by
  unfold fetch transactionWord
  cases x.op <;>
    simp only [h, decode, decodeBus_read ha, decodeBus_write _ ha, ne_eq, not_true_eq_false, if_false]

/-- Any other transaction is no instruction (20_memory R73). -/
theorem fetch_none (x : Transaction) (h : x.size ≠ 4 ∨ Offset.aligned x.off = false) : fetch x = none := by
  unfold fetch transactionWord
  by_cases hs : x.size = 4
  · have ha : Offset.aligned x.off = false := by tauto
    cases x.op <;> simp [hs, decode, decodeBus, ha]
  · simp [hs]

theorem fetch_some {x : Transaction} {i : Instr} (h : fetch x = some i) :
    x.size = 4 ∧ Offset.aligned x.off = true ∧ i = (match x.op with | .read => .rd x.off | .write d => .wr x.off d) := by
  by_cases hf : x.size ≠ 4 ∨ Offset.aligned x.off = false
  · rw [fetch_none x hf] at h; cases h
  · push Not at hf
    have ha : Offset.aligned x.off = true := by simpa using hf.2
    rw [fetch_aligned x hf.1 ha] at h
    exact ⟨hf.1, ha, (Option.some.inj h).symm⟩

/-! ## What the instructions and a step can do -/

theorem execRd_effect {off : Offset} {s t : State} (h : execRd off s = .next t) :
    ∃ r n, t = { s with reply := r, busErrors := n } := by
  unfold execRd at h
  split at h <;> (injection h with h; subst h; exact ⟨_, _, rfl⟩)

/-- A write that completes: a store, a bus error, a command, or an illegal command word (20_memory R76, R95, R96). -/
theorem execWr_cases {off : Offset} {v : Word} {s t : State} (h : execWr off v s = .next t) :
    (∃ r, off = offsetOf r ∧ accessOf r = .readWrite ∧ t = answer .written (storeHostReg r v s)) ∨
    (t = busError (.write v) s) ∨
    (off = offsetOf .cmd ∧ ((∃ c u, decodeCmd v = .ok c ∧ runCommand c s = .next u ∧ t = answer .written u) ∨
      ((∀ c, decodeCmd v ≠ .ok c) ∧ t = answer .written (cmdResult .illegalCmd s)))) := by
  unfold execWr at h
  split at h
  · next r hr =>
    have ho := regAt_some hr
    split at h
    · next ha => injection h with h; exact .inl ⟨r, ho, ha, h.symm⟩
    · next ha =>
      have hc : r = .cmd := by cases r <;> first | rfl | cases ha
      subst hc
      rw [thenUpdate_next] at h
      obtain ⟨u, hu, rfl⟩ := h
      refine .inr (.inr ⟨ho, ?_⟩)
      unfold runCmdWord at hu
      split at hu
      · next c hc => exact .inl ⟨c, u, hc, hu, rfl⟩
      · next e he => injection hu with hu; subst hu; exact .inr ⟨fun c hc => (by rw [he] at hc; cases hc), rfl⟩
    · injection h with h; exact .inr (.inl h.symm)
  · injection h with h; exact .inr (.inl h.symm)

theorem execSetpat_cases (s : State) :
    (s.cfgKind.toNat > 5 ∧ execSetpat s = .next (cmdResult .badKind s)) ∨
    (s.cfgKind.toNat ≤ 5 ∧ (isValid s.cfgColorA = false ∨ isValid s.cfgColorB = false) ∧
      execSetpat s = .next (cmdResult .badColor s)) ∨
    (s.cfgKind.toNat ≤ 5 ∧ isValid s.cfgColorA = true ∧ isValid s.cfgColorB = true ∧
      execSetpat s = .next (cmdResult .ok (activate s))) := by
  unfold execSetpat
  by_cases hk : s.cfgKind.toNat > 5
  · exact .inl ⟨hk, if_pos hk⟩
  · rw [if_neg hk]
    by_cases hc : isValid s.cfgColorA = false ∨ isValid s.cfgColorB = false
    · exact .inr (.inl ⟨by omega, hc, if_pos hc⟩)
    · rw [if_neg hc]
      push Not at hc
      exact .inr (.inr ⟨by omega, by simpa using hc.1, by simpa using hc.2, rfl⟩)

/-- A TICK that completes: not due, or one advance and then the new due time and STATUS (42_scheduler R202). -/
theorem execTick_cases {s t : State} (h : execTick s = .next t) :
    (isDue s = false ∧ t = cmdResult .ok (setTickFlags false false s)) ∨
    (isDue s = true ∧ ∃ u, advance (beforeAdvance s) = .next u ∧
      t = cmdResult .ok (setTickFlags true (s.nextDue == 0) (schedule u))) := by
  cases hd : isDue s
  · rw [execTick_notDue hd] at h
    injection h with h
    exact .inl ⟨rfl, h.symm⟩
  · rw [execTick_due hd, thenUpdate_next] at h
    exact .inr ⟨rfl, h⟩

/-- What one step can do (00_scope R7, 20_memory R80). -/
theorem step_cases {s t : State} (h : step s = .next t) :
    t = s ∨ (∃ rest, s.pending = .reset :: rest ∧ t = powerOn { s with pending := rest }) ∨
    (∃ x rest, s.pending = .bus x :: rest ∧ ((∃ op, t = busError op { s with pending := rest }) ∨
      (x.op = .read ∧ x.size = 4 ∧ execRd x.off { s with pending := rest } = .next t) ∨
      (∃ v, x.op = .write v ∧ x.size = 4 ∧ execWr x.off v { s with pending := rest } = .next t))) := by
  unfold step at h
  split at h
  · injection h with h; exact .inl h.symm
  · next rest hp => injection h with h; exact .inr (.inl ⟨rest, hp, h.symm⟩)
  · next x rest hp =>
    split at h
    · next i hi =>
      rcases holdForSink_next h with rfl | h
      · exact .inl rfl
      · obtain ⟨h4, ha, hi'⟩ := fetch_some hi
        refine .inr (.inr ⟨x, rest, hp, .inr ?_⟩)
        cases ho : x.op with
        | read => rw [ho] at hi'; subst hi'; exact .inl ⟨rfl, h4, h⟩
        | write v => rw [ho] at hi'; subst hi'; exact .inr ⟨v, rfl, h4, h⟩
    · injection h with h; exact .inr (.inr ⟨x, rest, hp, .inl ⟨_, h.symm⟩⟩)

end Sys2Proof.Machine
end

