-- ==== Sys2Proof/Tests/Slice0.lean ====
section
/-! SUPPORT. Decoding, well-formedness and one-step tests from the spec's vectors, and a witness for every obligation with
hypotheses. -/

namespace Sys2Proof.Tests

open Sys2Proof.Machine

/-! ## Helpers -/

/-- Parameters with the given P and NB; BASE is 0x100, CYLON_EDGE_N 32, both LAVA bounds 3. -/
abbrev dev (P NB : Nat) (h : 1 ≤ P := by decide) (h' : P ≤ 65535 := by decide) (k : 1 ≤ NB := by decide)
    (k' : NB ≤ 255 := by decide) : Params :=
  { pixels := P, nblobs := NB, lavaOnMax := 3, lavaOffMax := 3, cylonEdgeN := 32, base := 0x100, pixels_pos := h,
    pixels_le := h', nblobs_pos := k, nblobs_le := k', lavaOnMax_pos := by decide, lavaOnMax_lt := by decide,
    lavaOffMax_pos := by decide, lavaOffMax_lt := by decide, base_aligned := rfl }

/-- A device of four pixels after reset. -/
abbrev four : State := State.resetWith (dev 4 3)

/-- An activation of colours `a` and `b` with a speed, before its initial advance. -/
abbrev act (p : Params) (a b : Color) (speed : Word) : State :=
  { State.resetWith p with actColorA := a, actColorB := b, actSpeed := speed, advInitial := true }

/-- The same, in a later advance that finds `ps`, with the answers the Random source has ready. -/
abbrev later (p : Params) (a b : Color) (speed : Word) (ps : PatternState) (answers : List Nat) : State :=
  { act p a b speed with advInitial := false, ps := ps, random := { queued := answers, asked := [] } }

/-- The state after an instruction; the state itself where it stops. -/
abbrev after (i : Instr) (s : State) : State :=
  match exec i s with
  | .next t => t
  | .fault _ => s
  | .refused _ => s

/-- The device of four pixels with one transaction waiting. -/
abbrev sent (t : Transaction) : State := { four with pending := [.bus t] }

/-! ## Well-formedness: what the check refuses (R90) -/

theorem test_wf_read_misaligned : Instr.wf (.rd 0x06) = false := by decide
theorem test_wf_write_misaligned : Instr.wf (.wr 0x29 7) = false := by decide
theorem test_wf_last_aligned : Instr.wf (.rd 0xFC) = true := by decide

/-! ## Decoding: every instruction's word written out from its encoding (R90 to R92, R98; V-ENC) -/

theorem test_decode_nop : decode (.cmd 0b00000000000000000000000000000000) = .ok .nop := by decide
theorem test_decode_setpat : decode (.cmd 0b00000000000000000000000000000001) = .ok .setpat := by decide
theorem test_decode_tick : decode (.cmd 0b00000000000000000000000000000010) = .ok .tick := by decide
theorem test_decode_mix : decode (.cmd 0b00000000000000000000010000000011) = .ok (.mix 64) := by decide
theorem test_decode_dim : decode (.cmd 0b00000000000000000000011111110100) = .ok (.dim 127) := by decide
theorem test_decode_morph : decode (.cmd 0b00000000000000000000000000000101) = .ok .morph := by decide
theorem test_decode_expand : decode (.cmd 0b00000000000000000000000000000110) = .ok .expand := by decide
theorem test_decode_parse : decode (.cmd 0b00000000000000000000000000000111) = .ok .parse := by decide
theorem test_decode_rd :
    decode (.bus 0b00010110000000000000000000000000000000000) = .ok (.rd 0x2C) := by decide
theorem test_decode_wr :
    decode (.bus 0b10001010000000000000000000000000001100100) = .ok (.wr 0x14 100) := by decide
theorem test_decode_kinds :
    [0b000, 0b001, 0b010, 0b011, 0b100, 0b101].map (fun k => decode (.kind k)) =
      [.ok .advSolid, .ok .advPulse, .ok .advCylon, .ok .advAlternate, .ok .advFlicker, .ok .advLava] := by decide
theorem test_decode_refuses :
    [0x00000008, 0x0000000F, 0x00000011, 0x00000015, 0x00000012, 0x00000803, 0x80000000, 0x00000017].all
      (fun w => match decodeCmd w with | .ok _ => false | .error _ => true) = true := by decide
theorem test_decode_refuses_rest :
    decode (.kind 6) = .error .noKind ∧ decode (.kind 7) = .error .noKind ∧
    decode (.bus (busWord 0 0x06 0)) = .error .misaligned ∧ decode (.bus (busWord 0 0x04 1)) = .error .readWithData := by
  decide
theorem test_decodeTableWord :
    decodeTableWord 48 0x11400000064 = some (.wr 0x14 100) ∧ decodeTableWord 32 0x403 = some (.mix 64) ∧
    decodeTableWord 8 5 = some .advLava ∧ decodeTableWord 8 6 = none ∧ decodeTableWord 32 0x17 = none := by decide

/-! ## One step of each instruction (95_test_vectors) -/

/-- V-SET-8: a NOP clears ERR and keeps RAN and INIT. -/
theorem test_nop : (after .nop { four with status := 0x31 }).status = 0x30 := by decide
/-- V-SET-1. -/
theorem test_setpat :
    let t := after .setpat { four with cfgKind := 1, cfgColorA := 0x7F0000, cfgColorB := 0x7F, cfgSpeed := 55, nextDue := 300 }
    (t.actKind, t.actColorA, t.actColorB, t.actSpeed, t.nextDue, t.status) = (1, 0x7F0000, 0x7F, 55, 0, 0) := by decide
/-- V-SET-3: BAD_KIND comes before BAD_COLOR. -/
theorem test_setpat_refused :
    (after .setpat { four with cfgKind := 7, cfgColorA := 0x800000, status := 0x30 }).status = 0x33 := by decide
/-- V-TICK-1. -/
theorem test_tick :
    let t := after .tick { act (dev 4 3) 0x7F0000 0 100 with now := 40 }
    (t.nextDue, t.lastDelay, t.status, t.out.length) = (140, 100, 0x30, 5) := by decide
/-- V-TICK-6: the comparison is unsigned. -/
theorem test_tick_wrap :
    let t := after .tick { later (dev 4 3) 0x7F0000 0 0x20 .solid [] with now := 0xFFFFFFF8, nextDue := 0x10 }
    (t.nextDue, t.status) = (0x30, 0x10) := by decide
/-- V-MIX-5. -/
theorem test_mix : (after (.mix 100) { four with opa := 0x102030, opb := 0x405060 }).res = 0x354555 := by decide
/-- V-MIX-9. -/
theorem test_mix_masks : (after (.mix 127) { four with opa := 0xFF7F00, opb := 0x00FF7F }).res = 0x007F7F := by decide
/-- V-DIM-5. -/
theorem test_dim : (after (.dim 32) { four with opa := 0x7F0000, opb := 0x7F7F7F }).res = 0x200000 := by decide
/-- V-MORPH-3. -/
theorem test_morph : (after .morph { four with opa := 0x7F0040, opb := 0x00007F }).res = 0x7E0041 := by decide
/-- V-MORPH-5. -/
theorem test_morph_masks : (after .morph { four with opa := 0x7F7F7F, opb := 0x818181 }).res = 0x7E7E7E := by decide
/-- V-EXP-4. -/
theorem test_expand :
    (after .expand { four with opa := 0x808080, random := { queued := [5, 100, 127], asked := [] } }).res = 0x05647F := by
  decide
/-- V-EXP-5. -/
theorem test_expand_primary :
    (after .expand { four with opa := 0x818181, random := { queued := [1, 0, 1], asked := [] } }).res = 0x7F007F := by
  decide
/-- V-SET-9. -/
theorem test_parse : (after .parse { four with status := 0x10 }).status = 0x11 := by decide
/-- V-BUS-2, V-BUS-3 at their offsets. -/
theorem test_rd : (after (.rd 0x40) four).reply = .data 4 ∧ (after (.rd 0x44) four).reply = .data 3 := by decide
/-- V-BUS-6: an unmapped offset. -/
theorem test_rd_unmapped : busClean (after (.rd 0x48) four) = false := by decide
/-- V-BUS-11. -/
theorem test_wr : (after (.wr 0x0C 0xFF808080) four).cfgColorA = 0x808080 := by decide
/-- V-BUS-4 and V-BUS-7. -/
theorem test_wr_refused :
    (after (.wr 0x04 0xF) { four with status := 1 }).status = 1 ∧ (after (.wr 0xFC 0) four).reply = .writeError := by
  decide
/-- V-SOLID-2. -/
theorem test_solid :
    (after .advSolid { act (dev 2 1) 0x808080 0 7 with random := { queued := [1, 2, 3], asked := [] } }).out =
      [.pixel 0x010203, .pixel 0x010203, .latch] := by decide
/-- V-PULSE-1c. -/
theorem test_pulse :
    let t := after .advPulse (later (dev 2 1) 0x7F0000 0x7F 254 (.pulse ⟨0x7F0000, 0x7F, true, 2⟩) [])
    (t.ps, t.advDelay, t.out.head?) = (.pulse ⟨0x7F0000, 0x7F, true, 3⟩, 2, some (.pixel 0x7D0002)) := by decide
/-- V-PULSE-1e. -/
theorem test_pulse_bound :
    let t := after .advPulse (later (dev 2 1) 0x7F0000 0x7F 254 (.pulse ⟨0x7F0000, 0x7F, true, 126⟩) [])
    (t.ps, t.out.head?) = (.pulse ⟨0x7F0000, 0x7F, false, 127⟩, some (.pixel 0x01007E)) := by decide
/-- V-CYL-1, the advance at 300: the bounce at the far end. -/
theorem test_cylon :
    let t := after .advCylon (later (dev 4 1) 0x7F0000 0xA 800 (.cylon ⟨false, 3, 0x7F0000, 0xA⟩) [])
    (t.ps, t.advDelay, t.out) = (.cylon ⟨true, 2, 0x7F0000, 0xA⟩, 300,
      [.pixel 0xA, .pixel 0xA, .pixel 0x200000, .pixel 0x7F0000, .latch]) := by decide
/-- V-CYL-2. -/
theorem test_cylon_one_pixel :
    let t := after .advCylon (act (dev 1 1) 0x7F0000 0 10)
    (t.advDelay, t.out) = (15, [.pixel 0x7F0000, .latch]) := by decide
/-- V-ALT-2, the second advance. -/
theorem test_alternate :
    (after .advAlternate (later (dev 3 1) 0x7F0000 0x7F 5 (.alternate true) [])).out =
      [.pixel 0x7F, .pixel 0x7F0000, .pixel 0x7F, .latch] := by decide
/-- V-FLK-1, the advance at 10. -/
theorem test_flicker :
    let t := after .advFlicker (later (dev 1 1) 0x7F7F00 0x10 4 (.flicker ⟨0x7F7F00, 0x10, false, 2⟩) [2])
    (t.ps, t.advDelay, t.out) = (.flicker ⟨0x7F7F00, 0x10, true, 3⟩, 10, [.pixel 0x7F7F00, .latch]) := by decide
/-- V-FLK-1, the advance at 30: a clamp at `spd`, with no frame. -/
theorem test_flicker_clamp :
    let t := after .advFlicker (later (dev 1 1) 0x7F7F00 0x10 4 (.flicker ⟨0x7F7F00, 0x10, true, 4⟩) [2])
    (t.ps, t.out) = (.flicker ⟨0x7F7F00, 0x10, true, 4⟩, []) := by decide
/-- V-LAVA-1, the initial advance. -/
theorem test_lava :
    (after .advLava { act (dev 5 2) 0x7F0000 2 0 with random := { queued := [1, 2, 3, 1, 2], asked := [] } }).out =
      [.pixel 1, .pixel 1, .pixel 0x010000, .pixel 0x010000, .pixel 0x010000, .latch] := by decide
/-- V-LAVA-1, the advance at 30: two blobs over pixel 0. -/
theorem test_lava_overlap :
    (after .advLava (later (dev 5 2) 0x7F0000 2 0 (.lava
      { background := 2, buf := [0x010001, 2, 1, 1, 1],
        blobs := [⟨1, .inactive ⟨3, 1, 0x7F0000⟩⟩, ⟨2, .active ⟨0, 0, 0x7F0000⟩⟩] }) [4, 4, 1])).out =
      [.pixel 0x020000, .pixel 0x010001, .pixel 0x010001, .pixel 0x010001, .pixel 0x010001, .latch] := by decide
/-- V-SINK-1 and V-SINK-4. -/
theorem test_sink :
    eventBytes 4 (.pixel 0x7F0000) = [0x80, 0xFF, 0x80] ∧ eventBytes 33 .latch = List.replicate 16 0 := by decide
/-- V-TEXT-1. -/
theorem test_text :
    statusText { four with actKind := 1, actColorA := 0x7F0000, actColorB := 0x7F, actSpeed := 55 } =
      some "PULSE,0x7F0000,0x00007F,55".toList := by decide
/-- A line of PROG-3 and its transactions. -/
theorem test_assemble : assembleLine "cmd 3, 64 ; MIX".toList = some [.wr 0x00 0x403] := by decide

/-! ## Witnesses: for each obligation with hypotheses, a state and operands that meet them -/

theorem witness_DecodeOfEncodeIsInstruction :
    Instr.wf (.rd 0x00) = true ∧ Instr.wf (.wr 0xFC 0xFFFFFFFF) = true ∧ Instr.wf (.mix 127) = true := by decide
theorem witness_EncodeOfDecodeIsWord :
    decode (.bus 0x1FCFFFFFFFF) = .ok (.wr 0xFC 0xFFFFFFFF) ∧ decode (.cmd 0x7F3) = .ok (.mix 127) ∧
    decode (.kind 0) = .ok .advSolid := by decide
theorem witness_IllegalWordsOnlySetErr :
    IllegalWord 0x8 ∧ IllegalWord 0xF ∧ IllegalWord 0x803 ∧ IllegalWord 0x80000000 ∧ IllegalWord 0x10 ∧
    IllegalWord 0x7F7 ∧ ¬ IllegalWord 0x7F3 ∧ ¬ IllegalWord 0x004 ∧ ¬ IllegalWord 0x7 := by
  unfold IllegalWord; decide
theorem witness_OpcodeRowsAreDisjoint :
    (∃ c, decodeCmd 0x7F4 = .ok c) ∧ ∀ c, decodeCmd 0x8 ≠ .ok c :=
  ⟨⟨.dim 127, by decide⟩, fun _ h => nomatch ((show decodeCmd 0x8 = .error .reservedOp by decide).symm.trans h)⟩
theorem witness_ReadsReturnRegisters : (0x44, four.params.nblobs) ∈ ([(0x44, 3)] : List (Offset × Nat)) := by decide
theorem witness_WritesStoreUsedBits :
    accessOf .cfgKind = .readWrite ∧ accessOf .opb = .readWrite ∧ accessOf .now = .readWrite := by decide
theorem witness_CmdWriteRunsCommand :
    (∃ t, exec (Command.toInstr .nop) four = .next t) ∧
    exec (Command.toInstr .tick) { four with actKind := 6 } = .fault .unreachableKind := ⟨⟨_, rfl⟩, rfl⟩
theorem witness_BusErrorRaisedExactly :
    (sent ⟨0x48, 4, .read⟩).pending = .bus ⟨0x48, 4, .read⟩ :: [] ∧ four.sinkReady = true ∧
    (∃ t, step (sent ⟨0x48, 4, .read⟩) = .next t ∧ busClean t = false) ∧
    (∃ t, step (sent ⟨0x44, 4, .read⟩) = .next t ∧ busClean t = true) ∧ accessOf .cfgSpeed = .readWrite :=
  ⟨rfl, rfl, ⟨_, rfl, rfl⟩, ⟨_, rfl, rfl⟩, rfl⟩
theorem witness_BusErrorPerformsNothing :
    (∀ x, (sent x).pending = .bus x :: []) ∧ RaisesBusError ⟨0x04, 1, .read⟩ ∧ RaisesBusError ⟨0x03, 4, .write 1⟩ ∧ RaisesBusError ⟨0x48, 4, .read⟩ ∧
    RaisesBusError ⟨0xFC, 4, .write 0⟩ ∧ RaisesBusError ⟨0x44, 4, .write 0⟩ ∧ ¬ RaisesBusError ⟨0x44, 4, .read⟩ ∧
    ¬ RaisesBusError ⟨0x00, 4, .write 0⟩ := by
  refine ⟨fun _ => rfl, ?_⟩
  unfold RaisesBusError; decide
theorem witness_WindowReachesOffsets :
    0xFF < four.params.base ∧ four.params.base + 256 ≤ 0x200 ∧ four.params.base + (0xFF : Offset).toNat = 0x1FF := by
  decide
theorem witness_StepRunsDecodedInstruction :
    (sent (cmdTransaction 2)).pending = .bus (cmdTransaction 2) :: [] ∧ (cmdTransaction 2).size = 4 ∧
    decode (.bus (transactionWord (cmdTransaction 2))) = .ok (.wr 0 2) ∧ four.sinkReady = true ∧
    (∃ t, exec (.rd 0x04) four = .next t ∧ t.out = four.out) ∧
    (∃ t, exec (.wr 0 2) { four with sinkReady := false } = .next t ∧ t.out.length ≠ four.out.length) :=
  ⟨rfl, rfl, by decide, rfl, ⟨_, rfl, rfl⟩, ⟨_, rfl, by decide⟩⟩
theorem witness_ResetInputClearsBlock : { four with pending := [.reset], now := 7 }.pending = .reset :: [] := rfl
theorem witness_PlacedWordRunsNext :
    four.pending = [] ∧ decodeTableWord 48 0x10000000002 = some (.wr 0 2) ∧ decodeTableWord 32 2 = some .tick ∧
    decodeTableWord 8 5 = some .advLava := by decide
theorem witness_SetpatAppliesOrRefuses :
    ({ four with cfgKind := 6 }).cfgKind.toNat > 5 ∧ (5 : BitVec 3).toNat ≤ 5 ∧
    ¬ (Concrete 0x7F7F80 ∨ (0x7F7F80 : Color) = 0x808080 ∨ (0x7F7F80 : Color) = 0x818181) ∧ Concrete 0x7F7F7F := by
  unfold Concrete channelsOf; decide
theorem witness_FailuresArePrecise :
    (∃ t, exec (.wr 0 7) four = .next t ∧ errOf t.status ≠ 0) ∧ (5, Instr.advLava) ∈ advTable ∧
    ∃ t, exec .advSolid four = .next t := ⟨⟨_, rfl, by decide⟩, by decide, ⟨_, rfl⟩⟩
theorem witness_ErrorsHavePriority :
    IllegalWord 0x11 ∧ ({ four with cfgKind := 6 }).cfgKind.toNat > 5 ∧
    ({ four with cfgKind := 5, cfgColorB := 0x7F7F80 }).cfgKind.toNat ≤ 5 ∧
    ∃ c ∈ [four.cfgColorA, 0x7F7F80], ¬ Concrete c ∧ c ≠ 0x808080 ∧ c ≠ 0x818181 := by
  refine ⟨by unfold IllegalWord; decide, by decide, by decide, 0x7F7F80, by simp, ?_⟩
  unfold Concrete channelsOf; decide
theorem witness_TickNotDueChangesOnlyStatus :
    let s := { four with now := 239, nextDue := 240 }
    s.nextDue ≠ 0 ∧ s.now.toNat < s.nextDue.toNat := by decide
theorem witness_TickRunsSelectedAdvance :
    let s := { later (dev 4 3) 0x7F0000 0 100 .bot [] with now := 240, nextDue := 240 }
    (four.nextDue = 0 ∧ four.now = 0) ∧ (s.nextDue ≠ 0 ∧ s.nextDue.toNat ≤ s.now.toNat) ∧
    (∃ t, exec .advSolid { s with advInitial := s.nextDue == 0 } = .next t) ∧ s.actKind.toNat = 0 ∧
    exec .advLava { s with advInitial := s.nextDue == 0 } = .fault .undefinedPattern ∧ (6 : BitVec 3).toNat > 5 :=
  ⟨by decide, by decide, ⟨_, rfl⟩, by decide, rfl, by decide⟩
theorem witness_InitialTickAlwaysDispatches :
    let s := { act (dev 4 3) 0x7F0000 0 0 with actKind := 5, now := 0xFFFFFFFF }
    s.nextDue = 0 ∧ s.actKind.toNat ≤ 5 := by decide
theorem witness_PulseStartsFromLeft : (act (dev 4 3) 0x808080 0x818181 254).advInitial = true := rfl
theorem witness_PulseCounterIsPeriodic : (act (dev 1 1) 0x808080 0x818181 0).advInitial = true := rfl
theorem witness_FlickerStartsOff : (act (dev 4 3) 0x808080 0x818181 1).advInitial = true := rfl
theorem witness_PulseStepsAndTurns :
    let s := later (dev 2 1) 0x7F0000 0x7F 254 (.pulse ⟨0x7F0000, 0x7F, true, 125⟩) []
    s.advInitial = false ∧ s.ps = .pulse ⟨0x7F0000, 0x7F, true, 125⟩ ∧ (125 : BitVec 7).toNat < 126 ∧
    (126 : BitVec 7).toNat = 126 ∧ 1 < (2 : BitVec 7).toNat ∧ (1 : BitVec 7).toNat = 1 := by decide
theorem witness_CylonStartsAtZero :
    let s := fun (p : Params) => act p 0x7F0000 0xA 800
    ((s (dev 2 1)).advInitial = true ∧ 2 ≤ (s (dev 2 1)).params.pixels) ∧
    (s (dev 1 1)).advInitial = true ∧ (s (dev 1 1)).params.pixels = 1 := by decide
theorem witness_CylonStepsAndBounces :
    let q := fun (down : Bool) (pos : BitVec 16) => CylonState.mk down pos 0x7F0000 0xA
    (later (dev 4 1) 0x7F0000 0xA 800 (.cylon (q false 3)) []).advInitial = false ∧
    (later (dev 4 1) 0x7F0000 0xA 800 (.cylon (q false 3)) []).ps = .cylon (q false 3) ∧
    (q false 3).pos.toNat < (dev 4 1).pixels ∧ (q false 3).pos.toNat + 1 = (dev 4 1).pixels ∧
    (q true 0).pos.toNat = 0 ∧ ¬ ((q true 3).down = true ∧ (q true 3).pos.toNat = 0) ∧
    (q false 0).pos.toNat + 1 = (dev 1 1).pixels := by decide
theorem witness_CylonPositionIsPeriodic :
    let s := act (dev 2 1) 0 0 9
    s.advInitial = true ∧ 2 ≤ s.params.pixels := by decide
theorem witness_AlternateSwapsParity :
    ((act (dev 3 1) 0 0 5).advInitial = true ∧ false = false) ∧
    (later (dev 3 1) 0 0 5 (.alternate true) []).advInitial = false ∧
    (later (dev 3 1) 0 0 5 (.alternate true) []).ps = .alternate true := by decide
theorem witness_FlickerWalksAndFlips :
    let q := fun (w : Word) => FlickerState.mk 0x7F7F00 0x10 (decide (w.toNat > 2)) w
    (later (dev 1 1) 0x7F7F00 0x10 4 (.flicker (q 4)) [2]).advInitial = false ∧
    (later (dev 1 1) 0x7F7F00 0x10 4 (.flicker (q 4)) [2]).ps = .flicker (q 4) ∧ (q 4).weight.toNat ≤ (4 : Word).toNat ∧
    (q 0).weight.toNat + 0 = 0 ∧ (q 4).weight.toNat + 2 = (4 : Word).toNat + 2 ∧
    (q 4).weight.toNat + 1 ≤ (4 : Word).toNat + 1 := by decide
theorem witness_LavaStepsBlobsThenStrip :
    let q : LavaState :=
      { background := 2, buf := [1, 1],
        blobs := [⟨1, .unborn⟩, ⟨1, .active ⟨0, 1, 3⟩⟩, ⟨1, .inactive ⟨0, 1, 3⟩⟩, ⟨2, .active ⟨1, 0, 3⟩⟩] }
    let s := later (dev 2 4) 0x7F0000 2 0 (.lava q) []
    s.advInitial = false ∧ s.ps = .lava q ∧ q.buf.length = s.params.pixels ∧ q.blobs.length = s.params.nblobs := by decide
theorem witness_LavaStartsInactive :
    let t := after .advLava { act (dev 5 2) 0x7F0000 2 0 with random := { queued := [1, 2, 3, 1, 2], asked := [] } }
    t.ps = .lava ⟨2, [1, 1, 0x010000, 0x010000, 0x010000], [⟨2, .active ⟨3, 1, 0x7F0000⟩⟩, ⟨1, .unborn⟩]⟩ := by decide
theorem witness_CoverIsCircularDistance :
    1 ≤ 5 ∧ 0 < 5 ∧ (4 : BitVec 16).toNat < 5 ∧ covers 5 ⟨4, 1, 0⟩ 0 = true ∧ covers 5 ⟨4, 1, 0⟩ 2 = false ∧
    covers 1 ⟨0, 0, 0⟩ 0 = true := by decide
theorem witness_LavaDrawsAreBounded :
    (∃ t, exec .advLava (act (dev 1 1) 0x808080 0x808080 0) = .next t) ∧
    ∃ t, exec .advLava (later (dev 1 1) 0x808080 0 0
      (.lava { background := 0, buf := [0], blobs := [⟨1, .unborn⟩] }) []) = .next t := ⟨⟨_, rfl⟩, ⟨_, rfl⟩⟩
theorem witness_LavaPixelStagnates :
    Concrete 0x030F0B ∧ Concrete 0x050505 ∧ Concrete 0x0A0A0A ∧ Concrete 0x0F0104 ∧
    channelsOf (morph (morph 0x060500 0x050500) 0x7F0000) = [6, 4, 0] ∧
    channelsOf (morph (morph 0x030F0B 0x050505) 0x0A0A0A) = [5, 13, 10] ∧
    channelsOf (morph (morph 0x0F0104 0x0A0A0A) 0x050505) = [13, 3, 5] := by
  unfold Concrete channelsOf
  refine ⟨by decide, by decide, by decide, by decide, by decide, by decide, by decide⟩
theorem witness_AdvanceWritesNoHostRegister :
    (0, Instr.advSolid) ∈ advTable ∧ ∃ t, exec .advSolid four = .next t := ⟨by decide, ⟨_, rfl⟩⟩
theorem witness_StepEmitsAtMostOneFrame :
    (∃ t, step (sent (cmdTransaction 2)) = .next t ∧ t.out.length = 5) ∧ (∃ t, step four = .next t ∧ t.out = []) :=
  ⟨⟨_, rfl, by decide⟩, ⟨_, rfl, rfl⟩⟩
theorem witness_RandomAnswersAreTakenInOrder :
    ∃ t, step { sent (cmdTransaction 6) with opa := 0x808080, random := { queued := [0, 127, 128], asked := [] } } = .next t ∧
      t.random.queued = [] ∧ t.random.asked.length = 3 := ⟨_, rfl, rfl, rfl⟩
theorem witness_UndefinedPatternStops :
    four.advInitial = false ∧ (1, Instr.advPulse) ∈ advTable ∧ patternKind .bot ≠ decodeKind (BitVec.ofNat 3 1) ∧
    (([] : List Color).length ≠ (dev 4 3).pixels) := by decide
theorem witness_MixLaws :
    Concrete 0x7F007F ∧ (channelsOf 0x7F007F)[0]? = some 127 ∧ (channelsOf (mix 0x7F007F 0 64))[2]? = some 63 := by
  unfold Concrete channelsOf; decide
theorem witness_MorphConverges :
    Concrete 0x00007F ∧ ChannelWise (fun x _ => x) 0xFF0040 0xFF0040 0x7F0040 := by
  unfold Concrete ChannelWise channelsOf; decide
theorem witness_ColourMathIsClosed :
    (Concrete 0x7F7F7F ∨ (0x7F7F7F : Color) = 0x808080) ∧ ¬ Concrete 0x808080 := by
  unfold Concrete channelsOf; decide
theorem witness_ExpandTakesAnyAnswers :
    127 ≤ 127 ∧ (RandomPort.mk [127, 0, 127] []).queued = [127, 0, 127] ∧ (RandomPort.mk [1, 0, 1] []).queued = [1, 0, 1] := by
  decide
/-- The state after a SETPAT of PULSE and two TICKs, with a third waiting. -/
abbrev pulsing : State :=
  { State.resetWith (dev 1 1) with
    status := 0x10, actKind := 1, actColorA := 0x818181, actColorB := 0x7F, actSpeed := 254, nextDue := 4,
    ps := .pulse ⟨0x7F0000, 0x7F, true, 2⟩, pending := [.bus (cmdTransaction 2)],
    random := { queued := [], asked := [⟨.drawBit, 1⟩, ⟨.drawBit, 0⟩, ⟨.drawBit, 0⟩] },
    out := [.pixel 0x7F0000, .latch, .pixel 0x7E0001, .latch] }
theorem witness_InvariantStepNeverStops : Inv pulsing where
  errLegal := by decide
  initRan := by decide
  kindLegal := by decide
  colorALegal := by decide
  colorBLegal := by decide
  tagLegal := fun _ => rfl
  dueWritten := fun _ h => nomatch h
  patternFields := by decide
  framesWhole := by decide
  drawsLegal := by decide
theorem witness_StepKeepsInvariant : Inv pulsing ∧ ∃ t, step pulsing = .next t :=
  ⟨witness_InvariantStepNeverStops, ⟨_, rfl⟩⟩
theorem witness_OnlySetpatChangesActive :
    (∃ t, step { sent (cmdTransaction 1) with cfgSpeed := 9 } = .next t ∧ t.actSpeed = 9) ∧
    (∃ t, step (sent ⟨0x28, 4, .write 5⟩) = .next t ∧ t.now = 5) ∧
    (∃ t, step { four with pending := [.reset], now := 5 } = .next t ∧ t.now = 0) :=
  ⟨⟨_, rfl, rfl⟩, ⟨_, rfl, rfl⟩, ⟨_, rfl, rfl⟩⟩
theorem witness_StatusIsNeverRead :
    Instr.tick ≠ .rd 0x04 ∧ (∃ t, exec .tick four = .next t) ∧
    exec .tick { four with actKind := 7 } = .fault .unreachableKind := ⟨by decide, ⟨_, rfl⟩, rfl⟩
theorem witness_TickIgnoresStaging :
    (∃ t, exec .tick four = .next t) ∧ exec .tick { four with actKind := 6 } = .fault .unreachableKind := ⟨⟨_, rfl⟩, rfl⟩
theorem witness_SinkBytesAreFramedGrb : Concrete 0x7F007F := by unfold Concrete channelsOf; decide
theorem witness_StatusTextReadsBack :
    ({ four with actKind := 5 }.actKind.toNat, "LAVA".toList) ∈ [(5, "LAVA".toList)] := by decide
theorem witness_PseudoInstructionsExpand :
    15 < 16 ∧ 127 < 128 ∧ 7 < 8 ∧ 0xFFFFFF < 2 ^ 24 ∧ 0xFFFFFFFF < 2 ^ 32 ∧ 127 < 128 ∧ 7 < 8 ∧ 0xFFFFFF < 0x1000000 := by
  decide

end Sys2Proof.Tests
end

/-! When a later advance finds no pattern state of its own kind, and that it then stops (00_scope R14, 10_state R46; log 9). -/

namespace Sys2Proof.Machine

/-! ## When an advance has no state to start from -/

theorem pulseEntry_eq_none_iff (s : State) :
    pulseEntry s = none ↔ s.advInitial = false ∧ patternKind s.ps ≠ some .pulse := by
  unfold pulseEntry
  cases hi : s.advInitial with
  | true => simp
  | false => cases s.ps <;> simp [patternKind]

theorem cylonEntry_eq_none_iff (s : State) :
    cylonEntry s = none ↔ s.advInitial = false ∧ patternKind s.ps ≠ some .cylon := by
  unfold cylonEntry
  cases hi : s.advInitial with
  | true => simp
  | false => cases s.ps <;> simp [patternKind]

theorem alternateEntry_eq_none_iff (s : State) :
    alternateEntry s = none ↔ s.advInitial = false ∧ patternKind s.ps ≠ some .alternate := by
  unfold alternateEntry
  cases hi : s.advInitial with
  | true => simp
  | false => cases s.ps <;> simp [patternKind]

/-- LAVA's state is also undefined where the buffer or the pool lacks an entry (R53, R54). -/
theorem lavaEntry_eq_none_iff (s : State) :
    lavaEntry s = none ↔ s.advInitial = false ∧
      ∀ q, s.ps = .lava q → q.buf.length ≠ s.params.pixels ∨ q.blobs.length ≠ s.params.nblobs := by
  unfold lavaEntry
  cases hi : s.advInitial with
  | true => simp
  | false =>
    cases s.ps with
    | lava p => simpa using imp_iff_not_or
    | bot | solid | pulse | cylon | alternate | flicker => simp

theorem ps_ne_lava_of_patternKind {ps : PatternState} (h : patternKind ps ≠ some .lava) (q : LavaState) :
    ps ≠ .lava q := by
  rintro rfl
  exact h rfl

/-! ## An advance that has none stops -/

theorem execAdvPulse_of_entry_none {s : State} (h : pulseEntry s = none) :
    execAdvPulse s = .fault .undefinedPattern := by
  unfold execAdvPulse
  rw [h]

theorem execAdvCylon_of_entry_none {s : State} (h : cylonEntry s = none) :
    execAdvCylon s = .fault .undefinedPattern := by
  unfold execAdvCylon
  rw [h]

theorem execAdvAlternate_of_entry_none {s : State} (h : alternateEntry s = none) :
    execAdvAlternate s = .fault .undefinedPattern := by
  unfold execAdvAlternate
  rw [h]

/-- FLICKER reads its state in the operation itself, not through an entry of its own (R160). -/
theorem execAdvFlicker_of_other_kind {s : State} (hi : s.advInitial = false) (hk : patternKind s.ps ≠ some .flicker) :
    execAdvFlicker s = .fault .undefinedPattern := by
  unfold execAdvFlicker
  rw [hi]
  cases hps : s.ps with
  | flicker p => exact absurd (congrArg patternKind hps) hk
  | bot | solid | pulse | cylon | alternate | lava => rfl

theorem execAdvLava_of_entry_none {s : State} (h : lavaEntry s = none) :
    execAdvLava s = .fault .undefinedPattern := by
  unfold execAdvLava
  rw [h]

/-- The rows of the advance table whose operation reads its own variant of `ps` (30_encoding R98): all but SOLID's. -/
theorem advTable_reads_ps {p : Nat × Instr} (hp : p ∈ advTable) (h0 : p.1 ≠ 0) :
    p = (1, .advPulse) ∨ p = (2, .advCylon) ∨ p = (3, .advAlternate) ∨ p = (4, .advFlicker) ∨ p = (5, .advLava) := by
  simp only [advTable, List.mem_cons, List.not_mem_nil, or_false] at hp
  rcases hp with rfl | hp
  · exact absurd rfl h0
  · exact hp

/-- Settles O44: row by row, the advance finds no entry state; for LAVA's second clause the lengths are what it lacks. -/
theorem undefinedPatternStops : Obligations.UndefinedPatternStops := by
  intro s hi
  constructor
  · intro p hp h0 hk
    rcases advTable_reads_ps hp h0 with rfl | rfl | rfl | rfl | rfl
    · exact execAdvPulse_of_entry_none ((pulseEntry_eq_none_iff s).2 ⟨hi, hk⟩)
    · exact execAdvCylon_of_entry_none ((cylonEntry_eq_none_iff s).2 ⟨hi, hk⟩)
    · exact execAdvAlternate_of_entry_none ((alternateEntry_eq_none_iff s).2 ⟨hi, hk⟩)
    · exact execAdvFlicker_of_other_kind hi hk
    · exact execAdvLava_of_entry_none ((lavaEntry_eq_none_iff s).2
        ⟨hi, fun q hq => absurd hq (ps_ne_lava_of_patternKind hk q)⟩)
  · intro q hps hlen
    refine execAdvLava_of_entry_none ((lavaEntry_eq_none_iff s).2 ⟨hi, fun q' hq' => ?_⟩)
    obtain rfl : q = q' := by simpa using hps.symm.trans hq'
    exact hlen

end Sys2Proof.Machine

/-! The register map under a read and a write: what the bus sees of each register (10_state R30, R33;
20_memory R75, R76). -/

namespace Sys2Proof.Machine

/-! ## Reads -/

/-- The number a register stands for (R30): CMD reads 0, PIXELS is P and NBLOBS is NB. -/
def regValue (s : State) : HostReg → Nat
  | .cmd => 0
  | .status => s.status.toNat
  | .cfgKind => s.cfgKind.toNat
  | .cfgColorA => s.cfgColorA.toNat
  | .cfgColorB => s.cfgColorB.toNat
  | .cfgSpeed => s.cfgSpeed.toNat
  | .actKind => s.actKind.toNat
  | .actColorA => s.actColorA.toNat
  | .actColorB => s.actColorB.toNat
  | .actSpeed => s.actSpeed.toNat
  | .now => s.now.toNat
  | .nextDue => s.nextDue.toNat
  | .lastDelay => s.lastDelay.toNat
  | .opa => s.opa.toNat
  | .opb => s.opb.toNat
  | .res => s.res.toNat
  | .pixels => s.params.pixels
  | .nblobs => s.params.nblobs

/-- The reserved bits of the word read are zero, and PIXELS and NBLOBS fit it (R30; 00_scope R8). -/
theorem readHostReg_toNat (r : HostReg) (s : State) : (readHostReg r s).toNat = regValue s r := by
  have := s.params.pixels_le
  have := s.params.nblobs_le
  cases r with
  | pixels | nblobs => exact Nat.mod_eq_of_lt (by omega)
  | cmd | cfgSpeed | actSpeed | now | nextDue | lastDelay => rfl
  | status | cfgKind | cfgColorA | cfgColorB | actKind | actColorA | actColorB | opa | opb | res =>
    exact BitVec.toNat_setWidth_of_le (by decide)

theorem execRd_offsetOf (r : HostReg) (s : State) :
    execRd (offsetOf r) s = .next (answer (.data (readHostReg r s)) s) := by
  unfold execRd
  rw [regAt_offsetOf]

/-- Settles O6: the 18 pairs are the register map with each register's number. -/
theorem readsReturnRegisters : Obligations.ReadsReturnRegisters := by
  intro s p hp
  have hmap : p ∈ hostRegs.map fun r => (offsetOf r, regValue s r) := hp
  obtain ⟨r, -, rfl⟩ := List.mem_map.1 hmap
  exact ⟨readHostReg r s, readHostReg_toNat r s, execRd_offsetOf r s⟩

/-! ## Stores -/

theorem execWr_readWrite {r : HostReg} (h : accessOf r = .readWrite) (v : Word) (s : State) :
    execWr (offsetOf r) v s = .next (answer .written (storeHostReg r v s)) := by
  unfold execWr
  rw [regAt_offsetOf]
  simp only [h]

/-- Storing `n` bits of a word and reading them back zero-extended masks the word. -/
theorem setWidth_setWidth_eq_and {n : Nat} (hn : n ≤ 32) (v : Word) :
    (v.setWidth n).setWidth 32 = v &&& BitVec.ofNat 32 (2 ^ n - 1) := by
  have hlt : 2 ^ n - 1 < 2 ^ 32 := by
    have := Nat.pow_le_pow_right (show 0 < 2 by decide) hn
    have := Nat.two_pow_pos n
    omega
  apply BitVec.eq_of_toNat_eq
  rw [BitVec.toNat_setWidth_of_le hn, BitVec.toNat_setWidth, BitVec.toNat_and, BitVec.toNat_ofNat,
    Nat.mod_eq_of_lt hlt, Nat.and_two_pow_sub_one_eq_mod]

theorem readHostReg_storeHostReg_same {r : HostReg} (h : accessOf r = .readWrite) (v : Word) (s : State) :
    readHostReg r (storeHostReg r v s) = v &&& usedBits r := by
  cases r with
  | cfgKind => exact setWidth_setWidth_eq_and (n := 3) (by decide) v
  | cfgColorA | cfgColorB | opa | opb => exact setWidth_setWidth_eq_and (n := 24) (by decide) v
  | cfgSpeed | now => exact (BitVec.and_allOnes (x := v)).symm
  | cmd | status | actKind | actColorA | actColorB | actSpeed | nextDue | lastDelay | res | pixels | nblobs => cases h

theorem readHostReg_storeHostReg_ne {r r' : HostReg} (h : r' ≠ r) (v : Word) (s : State) :
    readHostReg r' (storeHostReg r v s) = readHostReg r' s := by
  cases r with
  | cfgKind | cfgColorA | cfgColorB | cfgSpeed | now | opa | opb => cases r' <;> first | rfl | exact absurd rfl h
  | cmd | status | actKind | actColorA | actColorB | actSpeed | nextDue | lastDelay | res | pixels | nblobs => rfl

/-- Settles O7: the store is read back at its own register and seen at no other. -/
theorem writesStoreUsedBits : Obligations.WritesStoreUsedBits := by
  intro r v s h
  refine ⟨_, execWr_readWrite h v s, fun r' => ?_, ?_⟩
  · split
    · next he =>
      subst he
      exact readHostReg_storeHostReg_same h v s
    · next he => exact readHostReg_storeHostReg_ne he v s
  · cases r <;> exact ⟨rfl, rfl, rfl, rfl, rfl, rfl, rfl, rfl, rfl, rfl⟩

end Sys2Proof.Machine

/-! A write to CMD and the command its word stands for (10_state R33; 30_encoding R92, R96). -/

namespace Sys2Proof

theorem decodeCmd_word (c : Command) : decodeCmd c.word = .ok c := by
  rw [decodeCmd_ok]
  cases c <;> simp [Command.word, commandOf]

/-- OP and N are the fields of the command's word wherever the row allows that N (R92, R95). -/
theorem word_of_commandOf {op : BitVec 4} {n : Ratio} {c : Command} (h : commandOf op n = some c)
    (hn : n = 0 ∨ op = 3 ∨ op = 4) : c.word = cmdWord n op := by
  have hop : op = BitVec.ofNat 4 op.toNat := by simp
  unfold commandOf at h
  split at h
  case h_9 => cases h
  case h_4 hk | h_5 hk =>
    rw [hk] at hop
    subst hop
    cases h
    rfl
  all_goals
    next hk =>
    rw [hk] at hop
    subst hop
    cases h
    obtain rfl : n = 0 := by simpa using hn
    rfl

/-- A legal word is the word of the command it decodes to (R92, R95). -/
theorem word_of_decodeCmd {w : Word} {c : Command} (h : decodeCmd w = .ok c) : c.word = w := by
  obtain ⟨hc, hrsv, hn⟩ := decodeCmd_ok.1 h
  rw [word_of_commandOf hc hn, cmdWord_fields w hrsv]

end Sys2Proof

namespace Sys2Proof.Machine

theorem exec_toInstr (c : Command) (s : State) : exec c.toInstr s = runCommand c s := by
  cases c <;> rfl

theorem execWr_cmd_word (c : Command) (s : State) :
    execWr (offsetOf .cmd) c.word s = thenUpdate (runCommand c s) (answer .written) := by
  unfold execWr runCmdWord
  rw [regAt_offsetOf, decodeCmd_word]
  rfl

/-- Settles O8: the write is the command followed by the bus's acceptance. -/
theorem cmdWriteRunsCommand : Obligations.CmdWriteRunsCommand := by
  intro c s
  have hw : exec (.wr 0x00 c.word) s = thenUpdate (exec c.toInstr s) (answer .written) := by
    rw [exec_toInstr]
    exact execWr_cmd_word c s
  refine ⟨fun t ht => ?_, fun f hf => ?_⟩
  · rw [hw, ht]; rfl
  · rw [hw, hf]; rfl

end Sys2Proof.Machine

/-! What the inputs leave of the active configuration, of NOW and of the parameters (10_state R39 to R43, R59, R60). -/

namespace Sys2Proof.Machine

/-- The active configuration (10_state R39 to R42) is the same in two states. -/
abbrev SameActive (s t : State) : Prop :=
  t.actKind = s.actKind ∧ t.actColorA = s.actColorA ∧ t.actColorB = s.actColorB ∧ t.actSpeed = s.actSpeed

/-- The parameters and NOW, which no command writes (R43, R59, R60). -/
abbrev SameClock (s t : State) : Prop := t.params = s.params ∧ t.now = s.now

theorem execTick_keeps {s t : State} (h : execTick s = .next t) : SameClock s t ∧ SameActive s t := by
  rcases execTick_cases h with ⟨-, rfl⟩ | ⟨-, u, hu, rfl⟩
  · exact ⟨⟨rfl, rfl⟩, rfl, rfl, rfl, rfl⟩
  · obtain ⟨p, r, d, es, rfl, -⟩ := advance_effect hu
    exact ⟨⟨rfl, rfl⟩, rfl, rfl, rfl, rfl⟩

theorem execSetpat_keeps {s t : State} (h : execSetpat s = .next t) : SameClock s t := by
  rcases execSetpat_cases s with ⟨-, he⟩ | ⟨-, -, he⟩ | ⟨-, -, -, he⟩ <;>
  · rw [he] at h
    cases h
    exact ⟨rfl, rfl⟩

/-- Only SETPAT writes the active configuration (R39 to R42). -/
theorem runCommand_keeps {c : Command} {s t : State} (h : runCommand c s = .next t) :
    SameClock s t ∧ (c = .setpat ∨ SameActive s t) := by
  cases c with
  | setpat => exact ⟨execSetpat_keeps h, .inl rfl⟩
  | tick => exact ⟨(execTick_keeps h).1, .inr (execTick_keeps h).2⟩
  | nop | mix | dim | morph | expand | parse =>
    cases h
    exact ⟨⟨rfl, rfl⟩, .inr ⟨rfl, rfl, rfl, rfl⟩⟩

/-- A store leaves the active configuration and the parameters, and reaches NOW at its own register only (R30). -/
theorem storeHostReg_keeps (r : HostReg) (v : Word) (s : State) :
    SameActive s (storeHostReg r v s) ∧ (storeHostReg r v s).params = s.params ∧
      (storeHostReg r v s).now = if r = .now then v else s.now := by
  cases r <;> exact ⟨⟨rfl, rfl, rfl, rfl⟩, rfl, rfl⟩

theorem busError_keeps (op : BusOp) (s : State) : SameClock s (busError op s) ∧ SameActive s (busError op s) := by
  cases op <;> exact ⟨⟨rfl, rfl⟩, rfl, rfl, rfl, rfl⟩

/-- What a completed write leaves of the active configuration, of the parameters and of NOW (R33, R43, R96). -/
theorem execWr_keeps {off : Offset} {v : Word} {s t : State} (h : execWr off v s = .next t) :
    t.params = s.params ∧ (SameActive s t ∨ off = offsetOf .cmd ∧ v = Command.word .setpat) ∧
      (t.now = s.now ∨ off = offsetOf .now ∧ t.now = v) := by
  rcases execWr_cases h with ⟨r, rfl, -, rfl⟩ | rfl | ⟨rfl, ⟨c, u, hc, hu, rfl⟩ | ⟨-, rfl⟩⟩
  · obtain ⟨hact, hp, hnow⟩ := storeHostReg_keeps r v s
    refine ⟨hp, .inl hact, ?_⟩
    by_cases hr : r = .now
    · exact .inr ⟨by rw [hr], by rw [answer_now, hnow, if_pos hr]⟩
    · exact .inl (by rw [answer_now, hnow, if_neg hr])
  · obtain ⟨⟨hp, hnow⟩, hact⟩ := busError_keeps (.write v) s
    exact ⟨hp, .inl hact, .inl hnow⟩
  · obtain ⟨⟨hp, hnow⟩, hact⟩ := runCommand_keeps hu
    refine ⟨hp, ?_, .inl hnow⟩
    rcases hact with rfl | hact
    · exact .inr ⟨rfl, (word_of_decodeCmd hc).symm⟩
    · exact .inl hact
  · exact ⟨rfl, .inl ⟨rfl, rfl, rfl, rfl⟩, .inl rfl⟩

/-- Settles O53: along the three kinds of input; among writes, only SETPAT's word and NOW's offset are exceptions. -/
theorem onlySetpatChangesActive : Obligations.OnlySetpatChangesActive := by
  intro s t h
  rcases step_cases h with rfl | ⟨rest, hp, rfl⟩ | ⟨⟨off, size, op⟩, rest, hp, hx⟩
  · exact ⟨rfl, .inr ⟨.inl ⟨rfl, rfl, rfl, rfl⟩, .inl rfl⟩⟩
  · exact ⟨rfl, .inl ⟨rest, hp⟩⟩
  · rcases hx with ⟨op', rfl⟩ | ⟨-, -, hr⟩ | ⟨v, rfl, rfl, hw⟩
    · obtain ⟨⟨hpar, hnow⟩, hact⟩ := busError_keeps op' { s with pending := rest }
      exact ⟨hpar, .inr ⟨.inl hact, .inl hnow⟩⟩
    · obtain ⟨r, n, rfl⟩ := execRd_effect hr
      exact ⟨rfl, .inr ⟨.inl ⟨rfl, rfl, rfl, rfl⟩, .inl rfl⟩⟩
    · obtain ⟨hpar, hact, hnow⟩ := execWr_keeps hw
      refine ⟨hpar, .inr ⟨?_, ?_⟩⟩
      · refine hact.imp_right fun ⟨ho, hv⟩ => ⟨rest, ?_⟩
        obtain rfl : off = offsetOf .cmd := ho
        rw [hp, hv]
        rfl
      · refine hnow.imp_right fun ⟨ho, hv⟩ => ⟨v, rest, ?_, hv⟩
        obtain rfl : off = offsetOf .now := ho
        exact hp

end Sys2Proof.Machine

/-! Nothing but a read of STATUS depends on STATUS (10_state R62): every instruction is followed from two states that
differ in the status word alone. -/

namespace Sys2Proof.Machine

/-- `s` with another status word. -/
def withStatus (st : BitVec 6) (s : State) : State := { s with status := st }

/-- The second outcome completes where the first does, in the same state up to STATUS, and faults as the first does. -/
def FollowsUpToStatus (o o' : Host.Outcome State Fault Refusal) : Prop :=
  (∀ t, o = .next t → ∃ st, o' = .next (withStatus st t)) ∧ (∀ f, o = .fault f → o' = .fault f)

theorem followsUpToStatus_next (st : BitVec 6) (t : State) : FollowsUpToStatus (.next t) (.next (withStatus st t)) :=
  ⟨fun _ h => by cases h; exact ⟨st, rfl⟩, fun _ h => by cases h⟩

theorem followsUpToStatus_of_eq {st : BitVec 6} {o o' : Host.Outcome State Fault Refusal}
    (h : o' = thenUpdate o (withStatus st)) : FollowsUpToStatus o o' := by
  subst h
  exact ⟨fun t h => ⟨st, by rw [h]; rfl⟩, fun f h => by rw [h]; rfl⟩

theorem followsUpToStatus_ite {p : Prop} [Decidable p] {o₁ o₁' o₂ o₂' : Host.Outcome State Fault Refusal}
    (h₁ : FollowsUpToStatus o₁ o₁') (h₂ : FollowsUpToStatus o₂ o₂') :
    FollowsUpToStatus (if p then o₁ else o₂) (if p then o₁' else o₂') := by
  by_cases h : p
  · simpa only [if_pos h] using h₁
  · simpa only [if_neg h] using h₂

/-- An update that carries "equal up to STATUS" along keeps the relation. -/
theorem FollowsUpToStatus.thenUpdate {o o' : Host.Outcome State Fault Refusal} (h : FollowsUpToStatus o o')
    {f : State → State} (hf : ∀ st t, ∃ st', f (withStatus st t) = withStatus st' (f t)) :
    FollowsUpToStatus (thenUpdate o f) (thenUpdate o' f) := by
  obtain ⟨hnext, hfault⟩ := h
  constructor
  · intro t ht
    obtain ⟨u, hu, rfl⟩ := thenUpdate_next.1 ht
    obtain ⟨st, hst⟩ := hnext u hu
    obtain ⟨st', hst'⟩ := hf st u
    exact ⟨st', thenUpdate_next.2 ⟨_, hst, hst'.symm⟩⟩
  · intro r hr
    cases o with
    | next u => cases hr
    | refused u => cases hr
    | fault r' =>
      cases hr
      rw [hfault r rfl]
      rfl

/-! ## The advances leave STATUS where it is -/

section

variable (st : BitVec 6) (s : State)

theorem execAdvSolid_withStatus :
    execAdvSolid (withStatus st s) = thenUpdate (execAdvSolid s) (withStatus st) := rfl

theorem execAdvPulse_withStatus :
    execAdvPulse (withStatus st s) = thenUpdate (execAdvPulse s) (withStatus st) := by
  have he : pulseEntry (withStatus st s) = pulseEntry s := rfl
  cases h : pulseEntry s with
  | none => rw [execAdvPulse_of_entry_none h, execAdvPulse_of_entry_none (he.trans h)]; rfl
  | some e => rw [execAdvPulse_of_entry h, execAdvPulse_of_entry (he.trans h)]; rfl

theorem execAdvCylon_withStatus :
    execAdvCylon (withStatus st s) = thenUpdate (execAdvCylon s) (withStatus st) := by
  have he : cylonEntry (withStatus st s) = cylonEntry s := rfl
  cases h : cylonEntry s with
  | none => rw [execAdvCylon_of_entry_none h, execAdvCylon_of_entry_none (he.trans h)]; rfl
  | some e => rw [execAdvCylon_of_entry h, execAdvCylon_of_entry (he.trans h)]; rfl

theorem execAdvAlternate_withStatus :
    execAdvAlternate (withStatus st s) = thenUpdate (execAdvAlternate s) (withStatus st) := by
  have he : alternateEntry (withStatus st s) = alternateEntry s := rfl
  cases h : alternateEntry s with
  | none => rw [execAdvAlternate_of_entry_none h, execAdvAlternate_of_entry_none (he.trans h)]; rfl
  | some e => rw [execAdvAlternate_of_entry h, execAdvAlternate_of_entry (he.trans h)]; rfl

theorem flickerContinue_withStatus (p : FlickerState) :
    flickerContinue p (withStatus st s) = withStatus st (flickerContinue p s) := by
  rw [flickerContinue_flip (s := s) rfl rfl, flickerContinue_flip (s := withStatus st s) rfl rfl]
  rfl

theorem execAdvFlicker_withStatus :
    execAdvFlicker (withStatus st s) = thenUpdate (execAdvFlicker s) (withStatus st) := by
  have hi : (withStatus st s).advInitial = s.advInitial := rfl
  have hps : (withStatus st s).ps = s.ps := rfl
  unfold execAdvFlicker
  rw [hi, hps]
  cases s.advInitial with
  | true => rfl
  | false =>
    cases s.ps with
    | flicker p =>
      simp only [Bool.false_eq_true, if_false, flickerContinue_withStatus]
      rfl
    | bot | solid | pulse | cylon | alternate | lava => rfl

theorem execAdvLava_withStatus :
    execAdvLava (withStatus st s) = thenUpdate (execAdvLava s) (withStatus st) := by
  have he : lavaEntry (withStatus st s) = lavaEntry s := rfl
  cases h : lavaEntry s with
  | none => rw [execAdvLava_of_entry_none h, execAdvLava_of_entry_none (he.trans h)]; rfl
  | some e => rw [execAdvLava_of_entry h, execAdvLava_of_entry (he.trans h)]; rfl

/-- The advance operation of a kind (30_encoding R98). -/
theorem exec_kind_withStatus (k : Kind) :
    exec k.toInstr (withStatus st s) = thenUpdate (exec k.toInstr s) (withStatus st) := by
  cases k with
  | solid => exact execAdvSolid_withStatus st s
  | pulse => exact execAdvPulse_withStatus st s
  | cylon => exact execAdvCylon_withStatus st s
  | alternate => exact execAdvAlternate_withStatus st s
  | flicker => exact execAdvFlicker_withStatus st s
  | lava => exact execAdvLava_withStatus st s

theorem advance_withStatus : advance (withStatus st s) = thenUpdate (advance s) (withStatus st) := by
  have hk : (withStatus st s).actKind = s.actKind := rfl
  cases h : decodeKind s.actKind with
  | some k => rw [advance_eq h, advance_eq (hk ▸ h), exec_kind_withStatus]
  | none =>
    unfold advance
    rw [hk, h]
    rfl

/-! ## The commands overwrite fields of STATUS and read none -/

theorem execSetpat_follows : FollowsUpToStatus (execSetpat s) (execSetpat (withStatus st s)) := by
  unfold execSetpat
  refine followsUpToStatus_ite ?_ (followsUpToStatus_ite ?_ ?_) <;> exact followsUpToStatus_next _ _

theorem execTick_follows : FollowsUpToStatus (execTick s) (execTick (withStatus st s)) := by
  have hdue : isDue (withStatus st s) = isDue s := rfl
  cases h : isDue s with
  | false =>
    rw [execTick_notDue h, execTick_notDue (hdue.trans h)]
    exact followsUpToStatus_next _ _
  | true =>
    rw [execTick_due h, execTick_due (hdue.trans h)]
    have hb : beforeAdvance (withStatus st s) = withStatus st (beforeAdvance s) := rfl
    rw [hb, advance_withStatus]
    exact (followsUpToStatus_of_eq rfl).thenUpdate fun _ _ => ⟨_, rfl⟩

theorem runCommand_follows (c : Command) :
    FollowsUpToStatus (runCommand c s) (runCommand c (withStatus st s)) := by
  cases c with
  | setpat => exact execSetpat_follows st s
  | tick => exact execTick_follows st s
  | nop | mix | dim | morph | expand | parse => exact followsUpToStatus_next _ _

theorem runCmdWord_follows (w : Word) :
    FollowsUpToStatus (runCmdWord w s) (runCmdWord w (withStatus st s)) := by
  unfold runCmdWord
  cases decodeCmd w with
  | ok c => exact runCommand_follows st s c
  | error e => exact followsUpToStatus_next _ _

/-! ## The transactions -/

theorem readHostReg_withStatus {r : HostReg} (h : r ≠ .status) :
    readHostReg r (withStatus st s) = readHostReg r s := by
  cases r with
  | status => exact absurd rfl h
  | _ => rfl

theorem storeHostReg_withStatus (r : HostReg) (v : Word) :
    storeHostReg r v (withStatus st s) = withStatus st (storeHostReg r v s) := by
  cases r <;> rfl

theorem busError_withStatus (op : BusOp) : busError op (withStatus st s) = withStatus st (busError op s) := by
  cases op <;> rfl

theorem execRd_follows {off : Offset} (h : off ≠ offsetOf .status) :
    FollowsUpToStatus (execRd off s) (execRd off (withStatus st s)) := by
  unfold execRd
  cases hr : regAt off with
  | none =>
    simp only [busError_withStatus]
    exact followsUpToStatus_next _ _
  | some r =>
    have hne : r ≠ .status := fun he => h (by rw [regAt_some hr, he])
    simp only [readHostReg_withStatus st s hne]
    exact followsUpToStatus_next _ _

theorem execWr_follows (off : Offset) (v : Word) :
    FollowsUpToStatus (execWr off v s) (execWr off v (withStatus st s)) := by
  unfold execWr
  cases regAt off with
  | none =>
    simp only [busError_withStatus]
    exact followsUpToStatus_next _ _
  | some r =>
    cases ha : accessOf r with
    | readWrite =>
      simp only [ha, storeHostReg_withStatus]
      exact followsUpToStatus_next _ _
    | writeOnly =>
      simp only [ha]
      exact (runCmdWord_follows st s v).thenUpdate fun _ _ => ⟨_, rfl⟩
    | readOnly =>
      simp only [ha, busError_withStatus]
      exact followsUpToStatus_next _ _

end

/-- Settles O54: instruction by instruction; the relation is what the statement asks. -/
theorem statusIsNeverRead : Obligations.StatusIsNeverRead := by
  intro i s st hi
  show FollowsUpToStatus (exec i s) (exec i (withStatus st s))
  cases i with
  | nop => exact runCommand_follows st s .nop
  | setpat => exact runCommand_follows st s .setpat
  | tick => exact runCommand_follows st s .tick
  | mix n => exact runCommand_follows st s (.mix n)
  | dim n => exact runCommand_follows st s (.dim n)
  | morph => exact runCommand_follows st s .morph
  | expand => exact runCommand_follows st s .expand
  | parse => exact runCommand_follows st s .parse
  | rd off => exact execRd_follows st s fun h => hi (congrArg Instr.rd h)
  | wr off v => exact execWr_follows st s off v
  | advSolid => exact followsUpToStatus_of_eq (exec_kind_withStatus st s .solid)
  | advPulse => exact followsUpToStatus_of_eq (exec_kind_withStatus st s .pulse)
  | advCylon => exact followsUpToStatus_of_eq (exec_kind_withStatus st s .cylon)
  | advAlternate => exact followsUpToStatus_of_eq (exec_kind_withStatus st s .alternate)
  | advFlicker => exact followsUpToStatus_of_eq (exec_kind_withStatus st s .flicker)
  | advLava => exact followsUpToStatus_of_eq (exec_kind_withStatus st s .lava)

end Sys2Proof.Machine

/-! A legal advance: from a legal pattern state of its own kind an advance completes, and leaves one (10_state R46 to R54,
R63; 43_interfaces R230, R231). -/

namespace Sys2Proof.Machine

/-- What an advance of kind `k` starts from: valid active colours, legal fields and draws, and its own tag unless it is
initial (R40, R41, R46, R52, R125). -/
structure AdvReady (k : Kind) (s : State) : Prop where
  colorA : isValid s.actColorA = true
  colorB : isValid s.actColorB = true
  tag : s.advInitial = false → patternKind s.ps = some k
  fields : patternLegal s = true
  draws : PortLegal s.random

/-- What an advance of kind `k` leaves: legal fields under its tag, legal draws, and no event or one whole frame. -/
def AdvLegal (k : Kind) (s t : State) : Prop :=
  ∃ p r d es, t = { s with ps := p, random := r, advDelay := d, out := s.out ++ es } ∧
    patternKind p = some k ∧ patternLegal { s with ps := p } = true ∧ PortLegal r ∧
    (es = [] ∨ ∃ cs : List Color, cs.length = s.params.pixels ∧ (∀ c ∈ cs, isConcrete c = true) ∧ es = frameOf cs)

theorem advLegal_frame {k : Kind} {s : State} {p : PatternState} {r : RandomPort} (d : Word) {cs : List Color}
    (hk : patternKind p = some k) (hp : patternLegal { s with ps := p } = true) (hr : PortLegal r)
    (hl : cs.length = s.params.pixels) (hc : ∀ c ∈ cs, isConcrete c = true) :
    AdvLegal k s (returnDelay d (drawFrame cs (setPs p (setRandom r s)))) :=
  ⟨p, r, d, frameOf cs, rfl, hk, hp, hr, .inr ⟨cs, hl, hc, rfl⟩⟩

/-- A frame of one colour (43_interfaces R232). -/
theorem advLegal_solidFrame {k : Kind} {s : State} {p : PatternState} {r : RandomPort} (d : Word) {c : Color}
    (hk : patternKind p = some k) (hp : patternLegal { s with ps := p } = true) (hr : PortLegal r)
    (hc : isConcrete c = true) : AdvLegal k s (returnDelay d (drawSolid c (setPs p (setRandom r s)))) :=
  advLegal_frame d hk hp hr (by simp) (fun _ h => List.eq_of_mem_replicate h ▸ hc)

/-- A frame of one colour for each pixel. -/
theorem advLegal_pixelFrame {k : Kind} {s : State} {p : PatternState} {r : RandomPort} (d : Word) {f : Nat → Color}
    (hk : patternKind p = some k) (hp : patternLegal { s with ps := p } = true) (hr : PortLegal r)
    (hf : ∀ i, isConcrete (f i) = true) :
    AdvLegal k s (returnDelay d (drawFrame ((List.range s.params.pixels).map f) (setPs p (setRandom r s)))) :=
  advLegal_frame d hk hp hr (by simp) (by simp [hf])

/-- The port after the expansions of the two active colours, one after the other. -/
theorem expand_expand_portLegal (a b : Color) {r : RandomPort} (h : PortLegal r) :
    PortLegal (expand b (expand a r).2).2 :=
  expand_portLegal b (expand_portLegal a h)

/-! ## SOLID -/

theorem execAdvSolid_legal {s : State} (h : AdvReady .solid s) :
    ∃ t, execAdvSolid s = .next t ∧ AdvLegal .solid s t := by
  refine ⟨_, rfl, advLegal_solidFrame _ ?_ ?_ (expand_portLegal _ h.draws) (expand_concrete _ h.colorA)⟩
  · cases hi : s.advInitial with
    | true => rfl
    | false => exact h.tag hi
  · cases s.advInitial with
    | true => rfl
    | false => exact h.fields

/-! ## PULSE -/

theorem pulseLegal_iff (p : PulseState) :
    pulseLegal p = true ↔ isConcrete p.left = true ∧ isConcrete p.right = true ∧
      (p.up = true → p.count ≠ 127) ∧ (p.up = false → p.count ≠ 0) := by
  unfold pulseLegal
  cases p.up <;> simp [and_assoc]

theorem pulseEntry_legal {s : State} (h : AdvReady .pulse s) :
    ∃ p r, pulseEntry s = some (p, r) ∧ pulseLegal p = true ∧ PortLegal r := by
  unfold pulseEntry
  cases hi : s.advInitial with
  | true =>
    refine ⟨_, _, rfl, ?_, expand_expand_portLegal _ _ h.draws⟩
    rw [pulseLegal_iff]
    exact ⟨expand_concrete _ h.colorA, expand_concrete _ h.colorB, by simp, by simp⟩
  | false =>
    have hf := h.fields
    have hk := h.tag hi
    unfold patternLegal at hf
    cases hps : s.ps with
    | pulse p =>
      rw [hps] at hf
      exact ⟨p, _, rfl, hf, h.draws⟩
    | bot | solid | cylon | alternate | flicker | lava => rw [hps] at hk; cases hk

/-- The counter turns at its bounds, so a step leaves no direction past its bound (R153, R154). -/
theorem pulseStep_legal {a b : Color} {p : PulseState} {r : RandomPort} (ha : isValid a = true) (hb : isValid b = true)
    (hp : pulseLegal p = true) (hr : PortLegal r) :
    pulseLegal (pulseStep a b p r).1 = true ∧ PortLegal (pulseStep a b p r).2 := by
  obtain ⟨hl, hr', -, -⟩ := (pulseLegal_iff p).1 hp
  rw [pulseLegal_iff]
  unfold pulseStep
  split
  · split
    · next hc =>
      have hne : p.count + 1 ≠ 0 := by rw [hc]; decide
      exact ⟨⟨expand_concrete r ha, hr', by simp, fun _ => hne⟩, expand_portLegal a hr⟩
    · next hu hc => exact ⟨⟨hl, hr', fun _ => hc, by simp [hu]⟩, hr⟩
  · split
    · next hc =>
      have hne : p.count - 1 ≠ 127 := by rw [hc]; decide
      exact ⟨⟨hl, expand_concrete r hb, fun _ => hne, by simp⟩, expand_portLegal b hr⟩
    · next hu hc => exact ⟨⟨hl, hr', by simp [hu], fun _ => hc⟩, hr⟩

theorem execAdvPulse_legal {s : State} (h : AdvReady .pulse s) :
    ∃ t, execAdvPulse s = .next t ∧ AdvLegal .pulse s t := by
  obtain ⟨p, r, he, hp, hr⟩ := pulseEntry_legal h
  obtain ⟨hp', hr'⟩ := pulseStep_legal h.colorA h.colorB hp hr
  exact ⟨_, execAdvPulse_of_entry he, advLegal_solidFrame _ rfl hp' hr' (mix_concrete _ _ _)⟩

/-! ## CYLON -/

theorem cylonLegal_iff (params : Params) (p : CylonState) :
    cylonLegal params p = true ↔ isConcrete p.eye = true ∧ isConcrete p.background = true ∧
      p.pos.toNat < params.pixels := by
  simp [cylonLegal, and_assoc]

theorem cylonEntry_legal {s : State} (h : AdvReady .cylon s) :
    ∃ p r, cylonEntry s = some (p, r) ∧ cylonLegal s.params p = true ∧ PortLegal r := by
  unfold cylonEntry
  cases hi : s.advInitial with
  | true =>
    refine ⟨_, _, rfl, ?_, expand_expand_portLegal _ _ h.draws⟩
    rw [cylonLegal_iff]
    exact ⟨expand_concrete _ h.colorA, expand_concrete _ h.colorB, s.params.pixels_pos⟩
  | false =>
    have hf := h.fields
    have hk := h.tag hi
    unfold patternLegal at hf
    cases hps : s.ps with
    | cylon p =>
      rw [hps] at hf
      exact ⟨p, _, rfl, hf, h.draws⟩
    | bot | solid | pulse | alternate | flicker | lava => rw [hps] at hk; cases hk

/-- A position on the strip fits the 16 bits of `pos` (00_scope R8). -/
theorem toNat_ofInt_lt_pixels (params : Params) {i : Int} (h : offStrip params.pixels i = false) :
    (BitVec.ofInt 16 i).toNat < params.pixels := by
  have := params.pixels_le
  simp only [offStrip, Bool.or_eq_false_iff, decide_eq_false_iff_not] at h
  rw [BitVec.toNat_ofInt]
  omega

theorem cylonTurned_onStrip {params : Params} {p : CylonState} (h : p.pos.toNat < params.pixels) :
    offStrip params.pixels (cylonTurned params.pixels p) = false := by
  unfold cylonTurned
  split
  · simp [offStrip]; omega
  · next hn => simpa using hn

theorem cylonStep_legal {params : Params} {a b : Color} {p : CylonState} {r : RandomPort} (ha : isValid a = true)
    (hb : isValid b = true) (hp : cylonLegal params p = true) (hr : PortLegal r) :
    cylonLegal params (cylonStep params.pixels a b p r).1 = true ∧ PortLegal (cylonStep params.pixels a b p r).2 := by
  obtain ⟨he, hg, hpos⟩ := (cylonLegal_iff params p).1 hp
  rw [cylonLegal_iff]
  unfold cylonStep
  split
  · exact ⟨⟨expand_concrete _ ha, expand_concrete _ hb, toNat_ofInt_lt_pixels params (cylonTurned_onStrip hpos)⟩,
      expand_expand_portLegal _ _ hr⟩
  · next hn => exact ⟨⟨he, hg, toNat_ofInt_lt_pixels params (by simpa [cylonBounces] using hn)⟩, hr⟩

theorem cylonPixel_concrete {params : Params} {p : CylonState} (h : cylonLegal params p = true) (n : Ratio) (i : Nat) :
    isConcrete (cylonPixel n p i) = true := by
  obtain ⟨he, hg, -⟩ := (cylonLegal_iff params p).1 h
  unfold cylonPixel
  split
  · exact he
  · split
    · exact dim_concrete _ _
    · exact hg

theorem execAdvCylon_legal {s : State} (h : AdvReady .cylon s) :
    ∃ t, execAdvCylon s = .next t ∧ AdvLegal .cylon s t := by
  obtain ⟨p, r, he, hp, hr⟩ := cylonEntry_legal h
  obtain ⟨hp', hr'⟩ := cylonStep_legal h.colorA h.colorB hp hr
  exact ⟨_, execAdvCylon_of_entry he, advLegal_pixelFrame _ rfl hp' hr' (cylonPixel_concrete hp _)⟩

/-! ## ALTERNATE -/

theorem alternatePixel_concrete {a b : Color} (ha : isConcrete a = true) (hb : isConcrete b = true) (phase : Bool)
    (i : Nat) : isConcrete (alternatePixel phase a b i) = true := by
  unfold alternatePixel
  split
  · exact ha
  · exact hb

theorem execAdvAlternate_legal {s : State} (h : AdvReady .alternate s) :
    ∃ t, execAdvAlternate s = .next t ∧ AdvLegal .alternate s t := by
  cases he : alternateEntry s with
  | none =>
    obtain ⟨hi, hk⟩ := (alternateEntry_eq_none_iff s).1 he
    exact absurd (h.tag hi) hk
  | some phase =>
    exact ⟨_, execAdvAlternate_of_entry he, advLegal_pixelFrame _ rfl rfl (expand_expand_portLegal _ _ h.draws)
      (alternatePixel_concrete (expand_concrete _ h.colorA) (expand_concrete _ h.colorB) phase)⟩

/-! ## FLICKER -/

theorem flickerLegal_iff (speed : Word) (p : FlickerState) :
    flickerLegal speed p = true ↔ isConcrete p.on = true ∧ isConcrete p.off = true ∧
      p.weight.toNat ≤ speed.toNat ∧ p.showOn = flickerShows speed p.weight := by
  simp [flickerLegal, and_assoc]

theorem flickerStart_legal {s : State} (h : AdvReady .flicker s) :
    AdvLegal .flicker s (returnDelay 10 (flickerStart s)) := by
  have hspd := s.actSpeed.isLt
  have hon := expand_concrete s.random h.colorA
  have hoff := expand_concrete (expand s.actColorA s.random).2 h.colorB
  refine advLegal_solidFrame _ rfl ((flickerLegal_iff _ _).2 ⟨hon, hoff, ?_, ?_⟩)
    (expand_expand_portLegal _ _ h.draws) hoff
  · simp only [BitVec.toNat_ofNat]; omega
  · simp [flickerShows]; omega

/-- The walk keeps the colours concrete and the weight within [0, spd] (R160, R161). -/
theorem flickerWalk_legal {a b : Color} {speed : Word} {d : Nat} {p : FlickerState} {r : RandomPort}
    (ha : isValid a = true) (hb : isValid b = true) (hp : flickerLegal speed p = true) (hd : d ≤ 2) (hr : PortLegal r) :
    flickerLegal speed { (flickerWalk a b speed d p r).1 with
      showOn := flickerShows speed (flickerWalk a b speed d p r).1.weight } = true ∧
    PortLegal (flickerWalk a b speed d p r).2 := by
  obtain ⟨hon, hoff, hw, -⟩ := (flickerLegal_iff speed p).1 hp
  obtain ⟨hlow, hhigh, hmid⟩ := flickerWalk_cases a b r hw hd
  have := speed.isLt
  rw [flickerLegal_iff]
  by_cases h0 : p.weight.toNat + d = 0
  · rw [hlow h0]
    exact ⟨⟨expand_concrete r ha, hoff, Nat.zero_le _, rfl⟩, expand_portLegal a hr⟩
  · by_cases h1 : p.weight.toNat + d = speed.toNat + 2
    · rw [hhigh h1]
      exact ⟨⟨hon, expand_concrete r hb, le_rfl, rfl⟩, expand_portLegal b hr⟩
    · rw [hmid (by omega) (by omega)]
      refine ⟨⟨hon, hoff, ?_, rfl⟩, hr⟩
      simp only [BitVec.toNat_ofNat]
      omega

theorem flickerContinue_legal {p : FlickerState} {s : State} (h : AdvReady .flicker s)
    (hp : flickerLegal s.actSpeed p = true) : AdvLegal .flicker s (returnDelay 10 (flickerContinue p s)) := by
  have hask : Askable (.drawRange 0 2) := Nat.zero_le _
  obtain ⟨hp', hr'⟩ := flickerWalk_legal h.colorA h.colorB hp (nextAnswer_mem s.random hask).2
    (ask_portLegal hask h.draws)
  obtain ⟨hon, hoff, -, -⟩ := (flickerLegal_iff _ _).1 hp'
  rw [flickerContinue_flip rfl rfl]
  refine ⟨_, _, _, _, rfl, rfl, hp', hr', ?_⟩
  split
  · exact .inl rfl
  · refine .inr ⟨_, by simp, fun c hc => ?_, rfl⟩
    rw [List.eq_of_mem_replicate hc]
    split
    · exact hon
    · exact hoff

theorem execAdvFlicker_legal {s : State} (h : AdvReady .flicker s) :
    ∃ t, execAdvFlicker s = .next t ∧ AdvLegal .flicker s t := by
  unfold execAdvFlicker
  cases hi : s.advInitial with
  | true => exact ⟨_, rfl, flickerStart_legal h⟩
  | false =>
    have hf := h.fields
    have hk := h.tag hi
    unfold patternLegal at hf
    cases hps : s.ps with
    | flicker p =>
      rw [hps] at hf
      exact ⟨_, rfl, flickerContinue_legal h hf⟩
    | bot | solid | pulse | cylon | alternate | lava => rw [hps] at hk; cases hk

/-! ## LAVA -/

theorem lavaLegal_iff (params : Params) (p : LavaState) :
    lavaLegal params p = true ↔ isConcrete p.background = true ∧ p.buf.length = params.pixels ∧
      (∀ c ∈ p.buf, isConcrete c = true) ∧ p.blobs.length = params.nblobs ∧
      (∀ b ∈ p.blobs, blobLegal params b = true) := by
  simp [lavaLegal, and_assoc]

/-- A drawn time in [1, m] is no 0 in the 32 bits of `cd`. -/
theorem ofNat_ne_zero_of_lt {n : Nat} (h : 1 ≤ n) (h' : n < 2 ^ 32) : BitVec.ofNat 32 n ≠ 0 := by
  intro h0
  have hn := congrArg BitVec.toNat h0
  rw [BitVec.toNat_ofNat, Nat.mod_eq_of_lt h'] at hn
  exact absurd hn (by simpa using Nat.ne_of_gt h)

theorem initialBlobs_legal (params : Params) (n : Nat) {r : RandomPort} (hr : PortLegal r) :
    (∀ b ∈ (initialBlobs params.lavaOffMax n r).1, blobLegal params b = true) ∧
      PortLegal (initialBlobs params.lavaOffMax n r).2 := by
  obtain ⟨cds, -, hcds, he⟩ := initialBlobs_spec params.lavaOffMax_pos n r
  have hmax := params.lavaOffMax_lt
  rw [he]
  constructor
  · intro b hb
    obtain ⟨c, hc, rfl⟩ := List.mem_map.1 hb
    have hne := ofNat_ne_zero_of_lt (hcds c hc).1 ((hcds c hc).2.trans_lt hmax)
    simpa [blobLegal] using hne
  · have hlegal : ∀ c ∈ cds, drawLegal ⟨.drawRange 1 params.lavaOffMax, c⟩ = true :=
      fun c hc => by simp [drawLegal, requestLo, requestHi, hcds c hc]
    simpa [PortLegal, hr] using hlegal

theorem lavaEntry_legal {s : State} (h : AdvReady .lava s) :
    ∃ p r, lavaEntry s = some (p, r) ∧ lavaLegal s.params p = true ∧ PortLegal r := by
  unfold lavaEntry
  cases hi : s.advInitial with
  | true =>
    obtain ⟨hblobs, hr⟩ := initialBlobs_legal s.params s.params.nblobs (expand_portLegal s.actColorB h.draws)
    refine ⟨_, _, rfl, ?_, hr⟩
    rw [lavaLegal_iff]
    exact ⟨expand_concrete _ h.colorB, by simp, fun c hc => by rw [List.eq_of_mem_replicate hc]; exact black_concrete,
      by simp, hblobs⟩
  | false =>
    have hf := h.fields
    have hk := h.tag hi
    unfold patternLegal at hf
    cases hps : s.ps with
    | lava p =>
      rw [hps] at hf
      obtain ⟨-, hbuf, -, hpool, -⟩ := (lavaLegal_iff _ _).1 hf
      exact ⟨p, s.random, if_pos (And.intro hbuf hpool), hf, h.draws⟩
    | bot | solid | pulse | cylon | alternate | flicker => rw [hps] at hk; cases hk

theorem spawn_legal {params : Params} {a : Color} {r : RandomPort} (ha : isValid a = true) (hr : PortLegal r) :
    blobLegal params (spawn params a r).1 = true ∧ PortLegal (spawn params a r).2 := by
  obtain ⟨pos, rad, dur, hpos, hrad, hlo, hhi, he⟩ := spawn_spec params a r
  have hne := ofNat_ne_zero_of_lt hlo (hhi.trans_lt params.lavaOnMax_lt)
  have hP := params.pixels_le
  rw [he]
  constructor
  · have h1 : pos % 65536 < params.pixels := by omega
    have h2 : rad % 65536 < params.pixels := by omega
    simpa [blobLegal, spotLegal, expand_concrete _ ha, h1, h2] using hne
  · have h1 : pos ≤ params.pixels - 1 := by omega
    have h2 : rad ≤ params.pixels - 1 := by omega
    exact expand_portLegal a (by simp [PortLegal, drawLegal, requestLo, requestHi, hr, h1, h2, hlo, hhi])

theorem despawn_legal {params : Params} {spot : Spot} {r : RandomPort} (hs : spotLegal params spot = true)
    (hr : PortLegal r) :
    blobLegal params (despawn params spot r).1 = true ∧ PortLegal (despawn params spot r).2 := by
  obtain ⟨wait, hlo, hhi, he⟩ := despawn_spec params spot r
  have hne := ofNat_ne_zero_of_lt hlo (hhi.trans_lt params.lavaOffMax_lt)
  rw [he]
  constructor
  · simpa [blobLegal, hs] using hne
  · simp [PortLegal, drawLegal, requestLo, requestHi, hr, hlo, hhi]

/-- `blob_step` keeps a blob legal: a countdown that does not expire does not reach 0 (R54, R171). -/
theorem blobStep_legal {params : Params} {a : Color} {b : Blob} {r : RandomPort} (ha : isValid a = true)
    (hb : blobLegal params b = true) (hr : PortLegal r) :
    blobLegal params (blobStep params a b r).1 = true ∧ PortLegal (blobStep params a b r).2 := by
  rcases blobStep_cases params a b r with ⟨hne, he⟩ | ⟨-, spot, hl, he⟩ | ⟨-, -, he⟩
  · have hcd : b.countdown - 1 ≠ 0 := fun h => hne (sub_eq_zero.1 h)
    rw [he]
    refine ⟨?_, hr⟩
    simp only [blobLegal, Bool.and_eq_true] at hb ⊢
    exact ⟨by simpa using hcd, hb.2⟩
  · rw [he]
    refine despawn_legal ?_ hr
    simpa [blobLegal, hl] using (Bool.and_eq_true_iff.1 hb).2
  · rw [he]
    exact spawn_legal ha hr

theorem stepBlobs_legal {params : Params} {a : Color} (ha : isValid a = true) (bs : List Blob) {r : RandomPort}
    (hbs : ∀ b ∈ bs, blobLegal params b = true) (hr : PortLegal r) :
    (∀ b ∈ (stepBlobs params a bs r).1, blobLegal params b = true) ∧ PortLegal (stepBlobs params a bs r).2 := by
  induction bs generalizing r with
  | nil => exact ⟨hbs, hr⟩
  | cons b bs ih =>
    obtain ⟨hb, hbs⟩ := List.forall_mem_cons.1 hbs
    obtain ⟨hb', hr'⟩ := blobStep_legal ha hb hr
    obtain ⟨hrest, hr''⟩ := ih hbs hr'
    exact ⟨List.forall_mem_cons.2 ⟨hb', hrest⟩, hr''⟩

theorem paintBlob_concrete {pixels : Nat} {buf : List Color} (h : ∀ c ∈ buf, isConcrete c = true) (b : Blob) :
    ∀ c ∈ paintBlob pixels buf b, isConcrete c = true := by
  unfold paintBlob
  split
  · intro c hc
    obtain ⟨i, hi, rfl⟩ := List.mem_mapIdx.1 hc
    split
    · exact morph_concrete _ _
    · exact h _ (List.getElem_mem hi)
  · exact h
  · exact h

theorem lavaBuffer_concrete (pixels : Nat) (g : Color) (blobs : List Blob) (buf : List Color) :
    ∀ c ∈ lavaBuffer pixels g blobs buf, isConcrete c = true := by
  unfold lavaBuffer
  refine List.foldlRecOn blobs (paintBlob pixels) (motive := fun l => ∀ c ∈ l, isConcrete c = true) ?_
    fun l hl b _ => paintBlob_concrete hl b
  intro c hc
  obtain ⟨c', -, rfl⟩ := List.mem_map.1 hc
  exact morph_concrete _ _

theorem execAdvLava_legal {s : State} (h : AdvReady .lava s) :
    ∃ t, execAdvLava s = .next t ∧ AdvLegal .lava s t := by
  obtain ⟨p, r, he, hp, hr⟩ := lavaEntry_legal h
  obtain ⟨hg, hbuf, -, hpool, hblobs⟩ := (lavaLegal_iff _ _).1 hp
  obtain ⟨hblobs', hr'⟩ := stepBlobs_legal h.colorA p.blobs hblobs hr
  have hconc := lavaBuffer_concrete s.params.pixels p.background (stepBlobs s.params s.actColorA p.blobs r).1 p.buf
  have hlen : (lavaBuffer s.params.pixels p.background (stepBlobs s.params s.actColorA p.blobs r).1 p.buf).length =
      s.params.pixels := by simpa using hbuf
  exact ⟨_, execAdvLava_of_entry he, advLegal_frame _ rfl
    ((lavaLegal_iff _ _).2 ⟨hg, hlen, hconc, by simpa using hpool, hblobs'⟩) hr' hlen hconc⟩

/-- The advance that ACT_KIND selects (30_encoding R98). -/
theorem advance_legal {k : Kind} {s : State} (hk : decodeKind s.actKind = some k) (h : AdvReady k s) :
    ∃ t, advance s = .next t ∧ AdvLegal k s t := by
  rw [advance_eq hk]
  cases k with
  | solid => exact execAdvSolid_legal h
  | pulse => exact execAdvPulse_legal h
  | cylon => exact execAdvCylon_legal h
  | alternate => exact execAdvAlternate_legal h
  | flicker => exact execAdvFlicker_legal h
  | lava => exact execAdvLava_legal h

end Sys2Proof.Machine

/-! The invariant, kept by every step, none of which stops (10_state R34, R39 to R41, R46 to R54, R63; 30_encoding R98;
70_reset R283). -/

namespace Sys2Proof.Machine

/-! ## Updates that keep the invariant -/

/-- The invariant speaks of these fields alone. -/
theorem Inv.congr {s t : State} (h : Inv s) (hstatus : t.status = s.status := by rfl)
    (hkind : t.actKind = s.actKind := by rfl) (ha : t.actColorA = s.actColorA := by rfl)
    (hb : t.actColorB = s.actColorB := by rfl) (hspeed : t.actSpeed = s.actSpeed := by rfl)
    (hdue : t.nextDue = s.nextDue := by rfl) (hps : t.ps = s.ps := by rfl) (hparams : t.params = s.params := by rfl)
    (hrandom : t.random = s.random := by rfl) (hout : t.out = s.out := by rfl) : Inv t where
  errLegal := hstatus ▸ h.errLegal
  initRan := hstatus ▸ h.initRan
  kindLegal := hkind ▸ h.kindLegal
  colorALegal := ha ▸ h.colorALegal
  colorBLegal := hb ▸ h.colorBLegal
  tagLegal := by rw [hps, hkind]; exact h.tagLegal
  dueWritten := by rw [hdue, hps]; exact h.dueWritten
  patternFields := by
    have := h.patternFields
    unfold patternLegal at this ⊢
    rw [hps, hparams, hspeed]
    exact this
  framesWhole := by rw [hparams, hout]; exact h.framesWhole
  drawsLegal := hrandom ▸ h.drawsLegal

theorem Inv.withStatus {s : State} (h : Inv s) {st : BitVec 6} (herr : (errOf st).toNat ≤ 4)
    (hinit : initOf st = true → ranOf st = true) : Inv (withStatus st s) :=
  { h with errLegal := herr, initRan := hinit }

theorem codeValue_le (code : ResultCode) : (codeValue code).toNat ≤ 4 := by
  cases code <;> decide

theorem Inv.cmdResult {s : State} (h : Inv s) (code : ResultCode) : Inv (cmdResult code s) :=
  h.withStatus (by rw [errOf_withErr]; exact codeValue_le code) (by simpa using h.initRan)

theorem Inv.setTickFlags {s : State} (h : Inv s) {ran init : Bool} (hri : init = true → ran = true) :
    Inv (setTickFlags ran init s) :=
  h.withStatus (by simpa using h.errLegal) (by simpa using hri)

theorem Inv.setRandom {s : State} (h : Inv s) {p : RandomPort} (hp : PortLegal p) : Inv (setRandom p s) :=
  { h with drawsLegal := hp }

/-- A new activation holds the checked configuration and has written no pattern state (42_scheduler R201). -/
theorem Inv.activate {s : State} (h : Inv s) (hk : s.cfgKind.toNat ≤ 5) (ha : isValid s.cfgColorA = true)
    (hb : isValid s.cfgColorB = true) : Inv (activate s) :=
  { h with
    kindLegal := hk, colorALegal := ha, colorBLegal := hb, tagLegal := fun hne => absurd rfl hne
    dueWritten := fun hne => absurd rfl hne, patternFields := rfl }

theorem Inv.storeHostReg {s : State} (h : Inv s) (r : HostReg) (v : Word) : Inv (storeHostReg r v s) := by
  cases r <;> exact h.congr

theorem Inv.busError {s : State} (h : Inv s) (op : BusOp) : Inv (busError op s) := by
  cases op <;> exact h.congr

theorem Inv.powerOn {s : State} (h : Inv s) : Inv (powerOn s) where
  errLegal := (by decide : (errOf 0).toNat ≤ 4)
  initRan := (by decide : initOf 0 = true → ranOf 0 = true)
  kindLegal := Nat.zero_le 5
  colorALegal := (by decide : isValid 0 = true)
  colorBLegal := (by decide : isValid 0 = true)
  tagLegal := fun hne => absurd rfl hne
  dueWritten := fun hne => absurd rfl hne
  patternFields := rfl
  framesWhole := h.framesWhole
  drawsLegal := h.drawsLegal

/-! ## TICK -/

theorem decodeKind_of_le {k : BitVec 3} (h : k.toNat ≤ 5) : ∃ kind, decodeKind k = some kind := by
  have hall : ∀ k : BitVec 3, k.toNat ≤ 5 → (decodeKind k).isSome = true := by decide
  exact Option.isSome_iff_exists.1 (hall k h)

/-- A TICK's advance is initial unless NEXT_DUE says that one has run, and then its tag stands (R46, R52, R202). -/
theorem Inv.advReady {s : State} (h : Inv s) {k : Kind} (hk : decodeKind s.actKind = some k) :
    AdvReady k (beforeAdvance s) where
  colorA := h.colorALegal
  colorB := h.colorBLegal
  tag := fun hi => (h.tagLegal (h.dueWritten (by simpa using hi))).trans hk
  fields := h.patternFields
  draws := h.drawsLegal

/-- After a legal advance the state is legal whatever the new due time and delay (R52, R202). -/
theorem Inv.schedule {s u : State} (h : Inv s) {k : Kind} (hk : decodeKind s.actKind = some k)
    (hu : AdvLegal k (beforeAdvance s) u) : Inv (schedule u) := by
  obtain ⟨p, r, d, es, rfl, htag, hp, hr, hes⟩ := hu
  have hne : p ≠ .bot := by rintro rfl; cases htag
  exact
    { errLegal := h.errLegal
      initRan := h.initRan
      kindLegal := h.kindLegal
      colorALegal := h.colorALegal
      colorBLegal := h.colorBLegal
      tagLegal := fun _ => htag.trans hk.symm
      dueWritten := fun _ => hne
      patternFields := hp
      framesWhole := by
        rcases hes with rfl | ⟨cs, hl, hc, rfl⟩
        · simpa using h.framesWhole
        · exact wholeFrames_append hc hl _ _ h.framesWhole
      drawsLegal := hr }

/-! ## Every input completes in a legal state -/

/-- The outcome is a next state, which satisfies the invariant. -/
def NextInv (o : Host.Outcome State Fault Refusal) : Prop := ∃ t, o = .next t ∧ Inv t

theorem nextInv_next {t : State} (h : Inv t) : NextInv (.next t) := ⟨t, rfl, h⟩

theorem execTick_nextInv {s : State} (h : Inv s) : NextInv (execTick s) := by
  cases hd : isDue s with
  | false =>
    rw [execTick_notDue hd]
    exact nextInv_next ((h.setTickFlags (by simp)).cmdResult .ok)
  | true =>
    obtain ⟨k, hk⟩ := decodeKind_of_le h.kindLegal
    obtain ⟨u, hu, hleg⟩ := advance_legal (s := beforeAdvance s) hk (h.advReady hk)
    rw [execTick_due hd, hu]
    exact nextInv_next (((h.schedule hk hleg).setTickFlags fun _ => rfl).cmdResult .ok)

theorem execSetpat_nextInv {s : State} (h : Inv s) : NextInv (execSetpat s) := by
  rcases execSetpat_cases s with ⟨-, he⟩ | ⟨-, -, he⟩ | ⟨hk, ha, hb, he⟩
  · rw [he]; exact nextInv_next (h.cmdResult _)
  · rw [he]; exact nextInv_next (h.cmdResult _)
  · rw [he]; exact nextInv_next ((h.activate hk ha hb).cmdResult _)

theorem runCommand_nextInv {s : State} (h : Inv s) (c : Command) : NextInv (runCommand c s) := by
  cases c with
  | nop | parse => exact nextInv_next (h.cmdResult _)
  | setpat => exact execSetpat_nextInv h
  | tick => exact execTick_nextInv h
  | mix | dim | morph => exact nextInv_next (Inv.cmdResult h.congr _)
  | expand => exact nextInv_next (Inv.cmdResult (Inv.congr (h.setRandom (expand_portLegal s.opa h.drawsLegal))) _)

theorem runCmdWord_nextInv {s : State} (h : Inv s) (w : Word) : NextInv (runCmdWord w s) := by
  unfold runCmdWord
  cases decodeCmd w with
  | ok c => exact runCommand_nextInv h c
  | error e => exact nextInv_next (h.cmdResult _)

theorem execRd_nextInv {s : State} (h : Inv s) (off : Offset) : NextInv (execRd off s) := by
  unfold execRd
  cases regAt off with
  | none => exact nextInv_next (h.busError _)
  | some r => exact nextInv_next h.congr

theorem execWr_nextInv {s : State} (h : Inv s) (off : Offset) (v : Word) : NextInv (execWr off v s) := by
  unfold execWr
  cases regAt off with
  | none => exact nextInv_next (h.busError _)
  | some r =>
    cases ha : accessOf r with
    | readWrite =>
      simp only [ha]
      exact nextInv_next (h.storeHostReg r v).congr
    | writeOnly =>
      obtain ⟨t, ht, hinv⟩ := runCmdWord_nextInv h v
      simp only [ha, ht]
      exact nextInv_next hinv.congr
    | readOnly =>
      simp only [ha]
      exact nextInv_next (h.busError _)

/-- A held step leaves the state it started from (20_memory R86). -/
theorem holdForSink_nextInv {s : State} (h : Inv s) {o : Host.Outcome State Fault Refusal} (ho : NextInv o) :
    NextInv (holdForSink s o) := by
  obtain ⟨t, rfl, ht⟩ := ho
  simp only [holdForSink]
  split
  · exact nextInv_next ht
  · split
    · exact nextInv_next ht
    · exact nextInv_next h

/-- The invariant's step lemma: whatever waits, the step completes and keeps it. -/
theorem step_nextInv {s : State} (h : Inv s) : NextInv (step s) := by
  unfold step
  split
  · exact nextInv_next h
  · exact nextInv_next (Inv.powerOn h.congr)
  · next x rest _ =>
    have hrest : Inv { s with pending := rest } := h.congr
    split
    · next i hi =>
      refine holdForSink_nextInv h ?_
      obtain ⟨-, -, rfl⟩ := fetch_some hi
      cases x.op with
      | read => exact execRd_nextInv hrest x.off
      | write v => exact execWr_nextInv hrest x.off v
    · exact nextInv_next (hrest.busError _)

/-- Settles O50: the next state is the one the step lemma gives. -/
theorem stepKeepsInvariant : Obligations.StepKeepsInvariant := by
  intro s t h ht
  obtain ⟨u, hu, hinv⟩ := step_nextInv h
  cases hu.symm.trans ht
  exact hinv

/-- Settles O51: the step lemma gives the next state. -/
theorem invariantStepNeverStops : Obligations.InvariantStepNeverStops := by
  intro s h
  obtain ⟨t, ht, -⟩ := step_nextInv h
  exact ⟨t, ht⟩

end Sys2Proof.Machine

/-! The bus window in the Host's address space, and the step that serves a transaction of it (00_scope R7;
20_memory R70, R80, R86). -/

namespace Sys2Proof.Machine

/-! ## The window -/

theorem windowOffset_busAddress (p : Params) (off : Offset) : windowOffset p (busAddress p off) = some off := by
  have hin : p.base ≤ busAddress p off ∧ busAddress p off < p.base + 256 :=
    ⟨Nat.le_add_right .., Nat.add_lt_add_left off.isLt _⟩
  have hoff : busAddress p off - p.base = off.toNat := Nat.add_sub_cancel_left ..
  rw [windowOffset, if_pos hin, hoff, BitVec.ofNat_toNat, BitVec.setWidth_eq]

theorem windowOffset_outside {p : Params} {addr : Nat} (h : addr < p.base ∨ p.base + 256 ≤ addr) :
    windowOffset p addr = none :=
  if_neg (by omega)

/-- Settles O11: an access is submitted at the offset that the window gives its address. -/
theorem windowReachesOffsets : Obligations.WindowReachesOffsets := by
  intro s size op
  refine ⟨fun off => ?_, fun addr h => ?_⟩
  · have hoff : windowOffset s.params (s.params.base + off.toNat) = some off := windowOffset_busAddress s.params off
    rw [submit, hoff, Option.map_some]
  · rw [submit, windowOffset_outside h, Option.map_none]

/-! ## The transaction at the head -/

theorem fetch_of_decode {x : Transaction} {i : Instr} (h4 : x.size = 4)
    (hd : decode (.bus (transactionWord x)) = .ok i) : fetch x = some i := by
  simp [fetch, h4, hd]

theorem step_of_fetch {s : State} {x : Transaction} {rest : List Input} {i : Instr} (hp : s.pending = .bus x :: rest)
    (hf : fetch x = some i) : step s = holdForSink s (exec i { s with pending := rest }) := by
  simp [step, hp, hf]

/-- A step that emits nothing completes, whatever the sink's readiness (R86; log 7). -/
theorem holdForSink_of_length_eq {s t : State} (h : t.out.length = s.out.length) : holdForSink s (.next t) = .next t := by
  cases hr : s.sinkReady with
  | true => exact holdForSink_ready _ hr
  | false => simp [holdForSink, h]

/-- A step that emits to a sink that does not accept is held (R86; log 7). -/
theorem holdForSink_of_length_ne {s t : State} (h : t.out.length ≠ s.out.length) (hr : s.sinkReady = false) :
    holdForSink s (.next t) = .next s := by
  simp [holdForSink, h, hr]

/-- Settles O12: the step is the decoded instruction under the sink's hold, whose three cases are the clauses. -/
theorem stepRunsDecodedInstruction : Obligations.StepRunsDecodedInstruction := by
  intro s x rest i hp h4 hd
  have hstep : step s = holdForSink s (exec i { s with pending := rest }) := step_of_fetch hp (fetch_of_decode h4 hd)
  refine ⟨fun hr => ?_, fun t ht hout => ?_, fun t ht hlen hr => ?_⟩
  · rw [hstep, holdForSink_ready _ hr]
  · rw [hstep, ht, holdForSink_of_length_eq (congrArg List.length hout)]
  · rw [hstep, ht, holdForSink_of_length_ne hlen hr]

end Sys2Proof.Machine

/-! The three formats read backwards, and the round trips of decode and encode (30_encoding R90 to R92, R98, R102). -/

namespace Sys2Proof

/-! ## Each format's word from what it decodes to -/

theorem encode_toInstr (c : Command) : encode c.toInstr = .cmd c.word := by
  cases c <;> rfl

theorem wf_toInstr (c : Command) : c.toInstr.wf = true := by
  cases c <;> rfl

theorem encode_kind_toInstr (k : Kind) : encode k.toInstr = .kind k.code := by
  cases k <;> rfl

theorem wf_kind_toInstr (k : Kind) : k.toInstr.wf = true := by
  cases k <;> rfl

theorem code_of_decodeKind {k : BitVec 3} {κ : Kind} (h : decodeKind k = some κ) : κ.code = k := by
  cases κ <;> (revert k; decide)

/-- The last two refusals of `decodeBus` leave no bit open: `W` is one of two values, and a read's DATA is 0 (R90). -/
theorem encode_of_decodeBus {w : BitVec 41} {i : Instr} (h : decodeBus w = .ok i) : i.wf = true ∧ encode i = .bus w := by
  unfold decodeBus at h
  split at h
  · cases h
  · next ha =>
    have ha : Offset.aligned (busOff w) = true := by simpa using ha
    split at h
    · next hw =>
      cases h
      exact ⟨ha, congrArg Encoded.bus (hw ▸ busWord_fields w)⟩
    · next hw =>
      have hw : busW w = 0 := by bv_omega
      split at h
      · cases h
      · next hd =>
        have hd : busData w = 0 := by simpa using hd
        cases h
        exact ⟨ha, congrArg Encoded.bus (hw ▸ hd ▸ busWord_fields w)⟩

/-! ## The round trips -/

/-- Settles O1, by the round trip of each instruction. -/
theorem decodeOfEncodeIsInstruction : Obligations.DecodeOfEncodeIsInstruction := by
  intro i
  cases i with
  | nop => exact Laws.RoundTrip.nop
  | setpat => exact Laws.RoundTrip.setpat
  | tick => exact Laws.RoundTrip.tick
  | mix n => exact Laws.RoundTrip.mix n
  | dim n => exact Laws.RoundTrip.dim n
  | morph => exact Laws.RoundTrip.morph
  | expand => exact Laws.RoundTrip.expand
  | parse => exact Laws.RoundTrip.parse
  | rd off => exact Laws.RoundTrip.rd off
  | wr off data => exact Laws.RoundTrip.wr off data
  | advSolid => exact Laws.RoundTrip.advSolid
  | advPulse => exact Laws.RoundTrip.advPulse
  | advCylon => exact Laws.RoundTrip.advCylon
  | advAlternate => exact Laws.RoundTrip.advAlternate
  | advFlicker => exact Laws.RoundTrip.advFlicker
  | advLava => exact Laws.RoundTrip.advLava

/-- Settles O2, format by format: a word of each is made of the fields its decoder reads. -/
theorem encodeOfDecodeIsWord : Obligations.EncodeOfDecodeIsWord := by
  intro e i h
  cases e with
  | cmd w =>
    cases hc : decodeCmd w with
    | error r => simp [decode, hc, Except.map] at h
    | ok c =>
      obtain rfl : c.toInstr = i := by simpa [decode, hc, Except.map] using h
      exact ⟨wf_toInstr c, by rw [encode_toInstr, word_of_decodeCmd hc]⟩
  | bus w => exact encode_of_decodeBus h
  | kind k =>
    cases hk : decodeKind k with
    | none => simp [decode, hk] at h
    | some κ =>
      obtain rfl : κ.toInstr = i := by simpa [decode, hk] using h
      exact ⟨wf_kind_toInstr κ, by rw [encode_kind_toInstr, code_of_decodeKind hk]⟩

/-- Settles O3: the seven words are those of the instructions, and the eighth has bit 11 of RSV set. -/
theorem sampleWordsDecode : Obligations.SampleWordsDecode :=
  ⟨decodeOfEncodeIsInstruction (.mix 64) rfl, decodeOfEncodeIsInstruction (.dim 127) rfl,
    decodeOfEncodeIsInstruction .tick rfl, decodeOfEncodeIsInstruction .expand rfl,
    decodeOfEncodeIsInstruction (.wr 0x14 100) rfl, decodeOfEncodeIsInstruction (.rd 0x04) rfl,
    decodeOfEncodeIsInstruction .advLava rfl, by decide⟩

end Sys2Proof

/-! The CMD words that are commands: R95's conditions in numbers, and the rows of the opcode table (30_encoding R91, R92,
R95; 60_exceptions R251). -/

namespace Sys2Proof

/-! ## The commands' words -/

theorem exists_commandOf_iff (op : BitVec 4) (n : Ratio) : (∃ c, commandOf op n = some c) ↔ op.toNat < 8 := by
  unfold commandOf
  split
  case h_9 h0 h1 h2 h3 h4 h5 h6 h7 =>
    simp only [imp_false] at h0 h1 h2 h3 h4 h5 h6 h7
    exact ⟨fun ⟨_, h⟩ => (nomatch h), fun _ => by omega⟩
  all_goals
    next hop => exact ⟨fun _ => by omega, fun _ => ⟨_, rfl⟩⟩

theorem word_injective : Function.Injective Command.word := fun c d h =>
  Except.ok.inj (by rw [← decodeCmd_word c, h, decodeCmd_word d])

/-! ## The rows of the opcode table -/

/-- The opcode table's row of a command: MIX and DIM leave N free, the others fix every bit (R92). -/
def Command.row : Command → Word × Word
  | .nop => (0xFFFFFFFF, 0x00000000)
  | .setpat => (0xFFFFFFFF, 0x00000001)
  | .tick => (0xFFFFFFFF, 0x00000002)
  | .mix _ => (0xFFFFF80F, 0x00000003)
  | .dim _ => (0xFFFFF80F, 0x00000004)
  | .morph => (0xFFFFFFFF, 0x00000005)
  | .expand => (0xFFFFFFFF, 0x00000006)
  | .parse => (0xFFFFFFFF, 0x00000007)

theorem row_mem_cmdTable (c : Command) : c.row ∈ cmdTable := by
  cases c <;> simp [Command.row, cmdTable]

/-- The mask 0xFFFFF80F clears N and keeps OP and RSV (R91, R92). -/
theorem cmdWord_and_ratioMask (n : Ratio) (op : BitVec 4) : cmdWord n op &&& 0xFFFFF80F = cmdWord 0 op := by
  have hmask : (0xFFFFF80F : Word) = (BitVec.allOnes 21 ++ 0#7) ++ BitVec.allOnes 4 := by decide
  rw [hmask, cmdWord, BitVec.and_append, BitVec.and_append, BitVec.and_allOnes, BitVec.and_allOnes, BitVec.and_zero]
  rfl

theorem word_and_row (c : Command) : c.word &&& c.row.1 = c.row.2 := by
  cases c with
  | mix n => exact cmdWord_and_ratioMask n 3
  | dim n => exact cmdWord_and_ratioMask n 4
  | nop | setpat | tick | morph | expand | parse => rfl

/-- A word with the OP and RSV of a row that leaves N free is made of its own N and that OP (R91). -/
theorem cmdWord_of_and_ratioMask {w : Word} {op : BitVec 4} (h : w &&& 0xFFFFF80F = cmdWord 0 op) :
    cmdWord (cmdN w) op = w := by
  have hop : cmdOp w = op := by
    have hmask : BitVec.extractLsb' 0 4 (0xFFFFF80F : Word) = .allOnes 4 := by decide
    have := congrArg cmdOp h
    rwa [cmdOp_cmdWord, cmdOp, BitVec.extractLsb'_and, hmask, BitVec.and_allOnes] at this
  have hrsv : cmdRsv w = 0 := by
    have hmask : BitVec.extractLsb' 11 21 (0xFFFFF80F : Word) = .allOnes 21 := by decide
    have := congrArg cmdRsv h
    rwa [cmdRsv_cmdWord, cmdRsv, BitVec.extractLsb'_and, hmask, BitVec.and_allOnes] at this
  rw [← hop, cmdWord_fields w hrsv]

/-- A word that a row matches is the word of a command of that row (R92). -/
theorem exists_command_of_row {w : Word} {r : Word × Word} (hr : r ∈ cmdTable) (h : w &&& r.1 = r.2) :
    ∃ c : Command, c.word = w ∧ c.row = r := by
  have whole : ∀ c : Command, w &&& BitVec.allOnes 32 = c.word → c.word = w := fun c h =>
    (BitVec.and_allOnes.symm.trans h).symm
  simp only [cmdTable, List.mem_cons, List.not_mem_nil, or_false] at hr
  obtain rfl | rfl | rfl | rfl | rfl | rfl | rfl | rfl := hr
  · exact ⟨.nop, whole .nop h, rfl⟩
  · exact ⟨.setpat, whole .setpat h, rfl⟩
  · exact ⟨.tick, whole .tick h, rfl⟩
  · exact ⟨.mix (cmdN w), cmdWord_of_and_ratioMask h, rfl⟩
  · exact ⟨.dim (cmdN w), cmdWord_of_and_ratioMask h, rfl⟩
  · exact ⟨.morph, whole .morph h, rfl⟩
  · exact ⟨.expand, whole .expand h, rfl⟩
  · exact ⟨.parse, whole .parse h, rfl⟩

theorem word_and_row_iff (c : Command) {r : Word × Word} (hr : r ∈ cmdTable) : c.word &&& r.1 = r.2 ↔ r = c.row := by
  refine ⟨fun h => ?_, ?_⟩
  · obtain ⟨d, hd, rfl⟩ := exists_command_of_row hr h
    rw [word_injective hd]
  · rintro rfl
    exact word_and_row c

theorem cmdRowsOf_word (c : Command) : cmdRowsOf c.word = 1 := by
  have hfilter : (cmdTable.filter fun r => c.word &&& r.1 == r.2) = cmdTable.filter (· == c.row) :=
    List.filter_congr fun r hr => by rw [Bool.eq_iff_iff, beq_iff_eq, beq_iff_eq, word_and_row_iff c hr]
  have hnodup : cmdTable.Nodup := by decide
  rw [cmdRowsOf, hfilter, ← List.count_eq_length_filter, List.count_eq_one_of_mem hnodup (row_mem_cmdTable c)]

theorem cmdRowsOf_eq_zero {w : Word} (h : ∀ c : Command, c.word ≠ w) : cmdRowsOf w = 0 := by
  rw [cmdRowsOf, List.length_eq_zero_iff, List.filter_eq_nil_iff]
  intro r hr hm
  obtain ⟨c, hc, -⟩ := exists_command_of_row hr (beq_iff_eq.1 hm)
  exact h c hc

/-- Settles O5: a word decodes exactly when it is a command's word, which its own row alone matches. -/
theorem opcodeRowsAreDisjoint : Obligations.OpcodeRowsAreDisjoint := by
  refine fun w => ⟨?_, fun h => cmdRowsOf_eq_zero ?_⟩
  · rintro ⟨c, hc⟩
    rw [← word_of_decodeCmd hc, cmdRowsOf_word]
  · rintro c rfl
    exact h c (decodeCmd_word c)

end Sys2Proof

namespace Sys2Proof.Machine

/-! ## Illegal words -/

/-- R95's three conditions are the three refusals of `decodeCmd`. -/
theorem exists_decodeCmd_iff (w : Word) : (∃ c, decodeCmd w = .ok c) ↔ ¬ IllegalWord w := by
  have hrsv : cmdRsv w = 0 ↔ w.toNat / 2048 = 0 := by rw [← BitVec.toNat_inj, cmdRsv_toNat]; rfl
  have hn : cmdN w = 0 ↔ w.toNat / 16 % 128 = 0 := by rw [← BitVec.toNat_inj, cmdN_toNat]; rfl
  have hmix : cmdOp w = 3 ↔ w.toNat % 16 = 3 := by rw [← BitVec.toNat_inj, cmdOp_toNat]; rfl
  have hdim : cmdOp w = 4 ↔ w.toNat % 16 = 4 := by rw [← BitVec.toNat_inj, cmdOp_toNat]; rfl
  simp only [decodeCmd_ok, exists_and_right, exists_commandOf_iff, cmdOp_toNat, hrsv, hn, hmix, hdim,
    IllegalWord]
  omega

theorem runCmdWord_illegal {w : Word} (h : IllegalWord w) (s : State) :
    runCmdWord w s = .next (cmdResult .illegalCmd s) := by
  unfold runCmdWord
  cases hd : decodeCmd w with
  | ok c => exact absurd h ((exists_decodeCmd_iff w).1 ⟨c, hd⟩)
  | error r => rfl

theorem execWr_cmd (w : Word) (s : State) :
    execWr (offsetOf .cmd) w s = thenUpdate (runCmdWord w s) (answer .written) := by
  unfold execWr
  rw [regAt_offsetOf]
  rfl

theorem errStatus_withErr (code : ResultCode) (st : BitVec 6) :
    ErrStatus (codeValue code).toNat st (withErr code st) :=
  ⟨congrArg BitVec.toNat (errOf_withErr code st), ranOf_withErr code st, initOf_withErr code st⟩

/-- Settles O4: an illegal word ends in ILLEGAL_CMD, and a legal one decodes to the one command whose word it is. -/
theorem illegalWordsOnlySetErr : Obligations.IllegalWordsOnlySetErr := by
  refine fun w s => ⟨fun h => ?_, fun h => ?_⟩
  · refine ⟨_, .written, errStatus_withErr .illegalCmd s.status, ?_⟩
    calc exec (.wr 0x00 w) s
      _ = execWr (offsetOf .cmd) w s := rfl
      _ = thenUpdate (.next (cmdResult .illegalCmd s)) (answer .written) := by
        rw [execWr_cmd, runCmdWord_illegal h]
      _ = _ := rfl
  · obtain ⟨c, hc⟩ := (exists_decodeCmd_iff w).2 h
    have hword : c.word = w := word_of_decodeCmd hc
    exact ⟨c, hword, fun d hd => word_injective (hd.trans hword.symm)⟩

end Sys2Proof.Machine

/-! The assembler's pseudo-instructions and the operands it refuses (30_encoding R101; log 17). -/

namespace Sys2Proof.Machine

/-! ## Lists of writes -/

/-- A statement whose writes are all assembled is those writes, in order. -/
theorem mapM_id_map_some {α : Type} (l : List α) : (l.map some).mapM id = some l := by
  rw [List.mapM_map]
  exact (List.mapM_pure (m := Option) (f := id)).trans (congrArg some l.map_id)

/-- One refused write refuses its statement, wherever it stands. -/
theorem mapM_id_eq_none {α : Type} {l : List (Option α)} (h : none ∈ l) : l.mapM id = none := by
  induction l with
  | nil => cases h
  | cons x xs ih =>
    rw [List.mapM_cons]
    cases x with
    | none => rfl
    | some a => simp [ih (by simpa using h)]

/-! ## One write -/

theorem writeOf_eq_some {bits v : Nat} (r : HostReg) (h : v < 2 ^ bits) :
    writeOf r bits v = some (.wr (offsetOf r) (BitVec.ofNat 32 v)) :=
  if_pos h

theorem writeOf_eq_none {bits v : Nat} (r : HostReg) (h : 2 ^ bits ≤ v) : writeOf r bits v = none :=
  if_neg (Nat.not_lt.2 h)

theorem commandWrite_eq_some {op n : Nat} (hop : op < 16) (hn : n < 128) :
    commandWrite op n = some (.wr 0x00 (BitVec.ofNat 32 (n * 16 + op))) := by
  rw [commandWrite, if_pos ⟨hop, hn⟩, writeOf_eq_some .cmd (by omega)]
  rfl

theorem commandWrite_eq_none {n : Nat} (op : Nat) (hn : 127 < n) : commandWrite op n = none :=
  if_neg (by omega)

/-! ## The statements -/

theorem parseStatement_cmd_default (x : List Char) :
    parseStatement ["cmd".toList, x] = (parseValue x).map fun o => .cmd o 0 := by
  have hrd : "cmd".toList ≠ "rd".toList := by decide
  simp only [parseStatement, if_neg hrd, if_true]

theorem expandStatement_cmd {op n : Nat} (hop : op < 16) (hn : n < 128) :
    expandStatement (.cmd op n) = some [.wr 0x00 (BitVec.ofNat 32 (n * 16 + op))] := by
  rw [expandStatement, commandWrite_eq_some hop hn]
  exact mapM_id_map_some [_]

theorem expandStatement_setpat {k a b v : Nat} (hk : k < 8) (ha : a < 2 ^ 24) (hb : b < 2 ^ 24) (hv : v < 2 ^ 32) :
    expandStatement (.setpat k a b v) = some [.wr 0x08 (BitVec.ofNat 32 k), .wr 0x0C (BitVec.ofNat 32 a),
      .wr 0x10 (BitVec.ofNat 32 b), .wr 0x14 (BitVec.ofNat 32 v), .wr 0x00 (BitVec.ofNat 32 1)] := by
  rw [expandStatement, writeOf_eq_some _ (bits := 3) hk, writeOf_eq_some _ ha, writeOf_eq_some _ hb, writeOf_eq_some _ hv,
    commandWrite_eq_some (by decide) (by decide)]
  exact mapM_id_map_some [_, _, _, _, _]

theorem expandStatement_tick {t : Nat} (ht : t < 2 ^ 32) :
    expandStatement (.tick t) = some [.wr 0x28 (BitVec.ofNat 32 t), .wr 0x00 (BitVec.ofNat 32 2)] := by
  rw [expandStatement, writeOf_eq_some _ ht, commandWrite_eq_some (by decide) (by decide)]
  exact mapM_id_map_some [_, _]

theorem expandStatement_mix {a b n : Nat} (ha : a < 2 ^ 24) (hb : b < 2 ^ 24) (hn : n < 128) :
    expandStatement (.mix a b n) = some [.wr 0x34 (BitVec.ofNat 32 a), .wr 0x38 (BitVec.ofNat 32 b),
      .wr 0x00 (BitVec.ofNat 32 (n * 16 + 3))] := by
  rw [expandStatement, writeOf_eq_some _ ha, writeOf_eq_some _ hb, commandWrite_eq_some (by decide) hn]
  exact mapM_id_map_some [_, _, _]

theorem expandStatement_dim {a n : Nat} (ha : a < 2 ^ 24) (hn : n < 128) :
    expandStatement (.dim a n) =
      some [.wr 0x34 (BitVec.ofNat 32 a), .wr 0x00 (BitVec.ofNat 32 (n * 16 + 4))] := by
  rw [expandStatement, writeOf_eq_some _ ha, commandWrite_eq_some (by decide) hn]
  exact mapM_id_map_some [_, _]

theorem expandStatement_morph {a t : Nat} (ha : a < 2 ^ 24) (ht : t < 2 ^ 24) :
    expandStatement (.morph a t) = some [.wr 0x34 (BitVec.ofNat 32 a), .wr 0x38 (BitVec.ofNat 32 t),
      .wr 0x00 (BitVec.ofNat 32 5)] := by
  rw [expandStatement, writeOf_eq_some _ ha, writeOf_eq_some _ ht, commandWrite_eq_some (by decide) (by decide)]
  exact mapM_id_map_some [_, _, _]

theorem expandStatement_expand {a : Nat} (ha : a < 2 ^ 24) :
    expandStatement (.expand a) = some [.wr 0x34 (BitVec.ofNat 32 a), .wr 0x00 (BitVec.ofNat 32 6)] := by
  rw [expandStatement, writeOf_eq_some _ ha, commandWrite_eq_some (by decide) (by decide)]
  exact mapM_id_map_some [_, _]

/-! ## Refusals -/

theorem expandStatement_large_ratio {n : Nat} (hn : 127 < n) (op a b : Nat) :
    expandStatement (.cmd op n) = none ∧ expandStatement (.mix a b n) = none ∧ expandStatement (.dim a n) = none := by
  refine ⟨mapM_id_eq_none ?_, mapM_id_eq_none ?_, mapM_id_eq_none ?_⟩ <;> simp [commandWrite_eq_none _ hn]

theorem expandStatement_large_kind {k : Nat} (hk : 7 < k) (a b v : Nat) :
    expandStatement (.setpat k a b v) = none :=
  mapM_id_eq_none (by simp [writeOf_eq_none (bits := 3) _ hk])

theorem expandStatement_large_color {a : Nat} (ha : 0xFFFFFF < a) (b n k v : Nat) :
    expandStatement (.setpat k a b v) = none ∧ expandStatement (.setpat k b a v) = none ∧
      expandStatement (.mix a b n) = none ∧ expandStatement (.mix b a n) = none ∧ expandStatement (.dim a n) = none ∧
      expandStatement (.morph a b) = none ∧ expandStatement (.morph b a) = none ∧ expandStatement (.expand a) = none := by
  have hnone (r : HostReg) : writeOf r 24 a = none := writeOf_eq_none r ha
  refine ⟨?_, ?_, ?_, ?_, ?_, ?_, ?_, ?_⟩ <;> exact mapM_id_eq_none (by simp [hnone])

/-- Settles O58, clause by clause: the default of `n`, the eight expansions and the refusals of `n`, `K` and colours. -/
theorem pseudoInstructionsExpand : Obligations.PseudoInstructionsExpand := fun op a b n k v =>
  ⟨expandStatement_cmd, parseStatement_cmd_default, rfl, rfl, expandStatement_setpat, expandStatement_tick,
    expandStatement_mix, expandStatement_dim, expandStatement_morph, expandStatement_expand,
    fun hn => expandStatement_large_ratio hn op a b, fun hk => expandStatement_large_kind hk a b v,
    fun ha => expandStatement_large_color ha b n k v⟩

end Sys2Proof.Machine

/-! The channels of a colour in numbers, and what mix, dim and morph do to them (10_state R31; 40_color_math R120 to R123,
R131 to R133). -/

namespace Sys2Proof.Machine

/-! ## The statements' words in the model's -/

theorem channelsOf_eq (c : Color) : channelsOf c = [(red c).toNat, (green c).toNat, (blue c).toNat] := by
  rw [channelsOf, red_toNat, green_toNat, blue_toNat]

theorem concrete_iff (c : Color) : Concrete c ↔ isConcrete c = true := by
  simp [Concrete, channelsOf_eq, isConcrete_iff]

/-- The valid colours: a concrete one, RANDOM and RANDOM_PRIMARY (R31). -/
theorem isValid_iff (c : Color) : isValid c = true ↔ Concrete c ∨ c = 0x808080 ∨ c = 0x818181 := by
  simp [isValid, concrete_iff, or_assoc, randomColor, randomPrimaryColor]

/-- The low seven bits of a channel are the channel's number modulo 128 (R120). -/
theorem channelWise_iff (f : Nat → Nat → Nat) (a b c : Color) :
    ChannelWise f a b c ↔ (red c).toNat = f (masked (red a)) (masked (red b)) ∧
      (green c).toNat = f (masked (green a)) (masked (green b)) ∧
      (blue c).toNat = f (masked (blue a)) (masked (blue b)) := by
  simp [ChannelWise, channelsOf_eq, masked]

/-- The value of one channel, by its place. -/
theorem ChannelWise.channel_eq {f : Nat → Nat → Nat} {a b c : Color} (h : ChannelWise f a b c) {j x y z : Nat}
    (hx : (channelsOf a)[j]? = some x) (hy : (channelsOf b)[j]? = some y) (hz : (channelsOf c)[j]? = some z) :
    z = f (x % 128) (y % 128) := by
  rw [h, List.getElem?_zipWith, hx, hy] at hz
  exact (Option.some.inj hz).symm

/-- A colour is fixed by what its channels are. -/
theorem ChannelWise.unique {f : Nat → Nat → Nat} {a b c c' : Color} (h : ChannelWise f a b c)
    (h' : ChannelWise f a b c') : c = c' := by
  obtain ⟨hr, hg, hb⟩ := (channelWise_iff f a b c).1 h
  obtain ⟨hr', hg', hb'⟩ := (channelWise_iff f a b c').1 h'
  exact color_ext (hr.trans hr'.symm) (hg.trans hg'.symm) (hb.trans hb'.symm)

/-- A concrete colour is its own masked colour (R120). -/
theorem channelWise_self {a : Color} (h : isConcrete a = true) : ChannelWise (fun x _ => x) a a a := by
  obtain ⟨hr, hg, hb⟩ := (isConcrete_iff a).1 h
  exact (channelWise_iff _ a a a).2 ⟨(masked_of_le hr).symm, (masked_of_le hg).symm, (masked_of_le hb).symm⟩

/-- A masked colour is concrete. -/
theorem isConcrete_of_channelWise {a c : Color} (h : ChannelWise (fun x _ => x) a a c) : isConcrete c = true := by
  obtain ⟨hr, hg, hb⟩ := (channelWise_iff _ a a c).1 h
  rw [isConcrete_iff, hr, hg, hb]
  exact ⟨masked_le _, masked_le _, masked_le _⟩

/-! ## One channel of mix -/

/-- Moving both ends of a blend up moves the blend up. -/
theorem mixChannel_mono {n x x' y y' : Nat} (hx : x ≤ x') (hy : y ≤ y') : mixChannel n x y ≤ mixChannel n x' y' :=
  Nat.div_le_div_right (Nat.add_le_add (Nat.mul_le_mul_right _ hx) (Nat.mul_le_mul_right _ hy))

theorem mixChannel_self {n : Nat} (hn : n ≤ 127) (x : Nat) : mixChannel n x x = x := by
  rw [mixChannel, ← Nat.mul_add, Nat.sub_add_cancel hn, Nat.mul_div_cancel x (by decide)]

theorem mixChannel_zero (x y : Nat) : mixChannel 0 x y = x := by simp [mixChannel]

theorem mixChannel_full (x y : Nat) : mixChannel 127 x y = y := by simp [mixChannel]

theorem mixChannel_comm {n : Nat} (hn : n ≤ 127) (x y : Nat) : mixChannel n x y = mixChannel (127 - n) y x := by
  rw [mixChannel, mixChannel, Nat.sub_sub_self hn, Nat.add_comm]

theorem mixChannel_black (n y : Nat) : mixChannel n 0 y = y * n / 127 := by simp [mixChannel]

/-- A blend lies between its ends: it grows with both, and the blend of a value with itself is that value. -/
theorem mixChannel_bounds {n : Nat} (hn : n ≤ 127) (x y : Nat) :
    min x y ≤ mixChannel n x y ∧ mixChannel n x y ≤ max x y := by
  constructor
  · calc min x y = mixChannel n (min x y) (min x y) := (mixChannel_self hn _).symm
      _ ≤ mixChannel n x y := mixChannel_mono (min_le_left x y) (min_le_right x y)
  · calc mixChannel n x y ≤ mixChannel n (max x y) (max x y) := mixChannel_mono (le_max_left x y) (le_max_right x y)
      _ = max x y := mixChannel_self hn _

/-! ## mix, dim and morph on each channel -/

theorem mix_channelWise (a b : Color) (n : Ratio) : ChannelWise (mixChannel n.toNat) a b (mix a b n) :=
  (channelWise_iff _ _ _ _).2 (mix_channels a b n)

theorem morph_channelWise (a b : Color) : ChannelWise morphChannel a b (morph a b) :=
  (channelWise_iff _ _ _ _).2 (morph_channels a b)

/-- DIM is the blend from black (R122). -/
theorem dim_channelWise (a : Color) (n : Ratio) : ChannelWise (fun x _ => x * n.toNat / 127) a a (dim a n) := by
  obtain ⟨hr, hg, hb⟩ := mix_channels black a n
  rw [show masked (red black) = 0 by decide, mixChannel_black] at hr
  rw [show masked (green black) = 0 by decide, mixChannel_black] at hg
  rw [show masked (blue black) = 0 by decide, mixChannel_black] at hb
  exact (channelWise_iff _ _ _ _).2 ⟨hr, hg, hb⟩

/-- Settles O16: the model's formula on each channel is the statement's. -/
theorem mixBlendsChannels : Obligations.MixBlendsChannels := fun n s =>
  ⟨mix s.opa s.opb n, _, mix_channelWise s.opa s.opb n, errStatus_withErr .ok s.status, rfl⟩

/-- Settles O17, through the blend from black. -/
theorem dimScalesChannels : Obligations.DimScalesChannels := fun n s =>
  ⟨dim s.opa n, _, dim_channelWise s.opa n, errStatus_withErr .ok s.status, rfl⟩

/-- Settles O18: the model's step on each channel is the statement's. -/
theorem morphStepsChannels : Obligations.MorphStepsChannels := fun s =>
  ⟨morph s.opa s.opb, _, morph_channelWise s.opa s.opb, errStatus_withErr .ok s.status, rfl⟩

/-! ## The laws of mix -/

theorem mix_self_channelWise (a : Color) (n : Ratio) : ChannelWise (fun x _ => x) a a (mix a a n) := by
  simpa only [channelWise_iff, mixChannel_self (ratio_le n)] using mix_channels a a n

theorem mix_self_of_concrete {a : Color} (h : Concrete a) (n : Ratio) : mix a a n = a :=
  (mix_self_channelWise a n).unique (channelWise_self ((concrete_iff a).1 h))

theorem mix_zero_channelWise (a b : Color) : ChannelWise (fun x _ => x) a a (mix a b 0) := by
  have hzero : (0 : Ratio).toNat = 0 := rfl
  simpa only [channelWise_iff, hzero, mixChannel_zero] using mix_channels a b 0

theorem mix_full_channelWise (a b : Color) : ChannelWise (fun x _ => x) b b (mix a b 127) := by
  have hfull : (127 : Ratio).toNat = 127 := rfl
  simpa only [channelWise_iff, hfull, mixChannel_full] using mix_channels a b 127

theorem ratio_compl_toNat (n : Ratio) : (127 - n).toNat = 127 - n.toNat :=
  BitVec.toNat_sub_of_le (x := (127 : Ratio)) (ratio_le n)

theorem mix_comm_compl (a b : Color) (n : Ratio) : mix a b n = mix b a (127 - n) := by
  obtain ⟨hr, hg, hb⟩ := mix_channels a b n
  obtain ⟨hr', hg', hb'⟩ := mix_channels b a (127 - n)
  rw [ratio_compl_toNat, ← mixChannel_comm (ratio_le n)] at hr' hg' hb'
  exact color_ext (hr.trans hr'.symm) (hg.trans hg'.symm) (hb.trans hb'.symm)

/-- The ramp from black to white: the blend of 0 and 127 at n/127 is n (R131). -/
theorem channelsOf_mix_grey (n : Ratio) : channelsOf (mix 0x000000 0x7F7F7F n) = [n.toNat, n.toNat, n.toNat] := by
  have hramp : mixChannel n.toNat 0 127 = n.toNat := by
    rw [mixChannel_black, Nat.mul_div_cancel_left _ (by decide)]
  have hlists : channelsOf 0x000000 = [0, 0, 0] ∧ channelsOf 0x7F7F7F = [127, 127, 127] := by
    unfold channelsOf
    decide
  rw [mix_channelWise, hlists.1, hlists.2]
  simp [hramp]

/-- Settles O45, law by law. -/
theorem mixLaws : Obligations.MixLaws := by
  refine fun a b n => ⟨⟨mix_self_channelWise a n, fun h => mix_self_of_concrete h n⟩,
    ⟨mix_zero_channelWise a b, mix_full_channelWise a b⟩, mix_comm_compl a b n, ?_, channelsOf_mix_grey n⟩
  intro j x y z hx hy hz
  rw [(mix_channelWise a b n).channel_eq hx hy hz]
  exact mixChannel_bounds (ratio_le n) _ _

/-! ## Repeated morph -/

/-- How far one channel lies from another. -/
def channelDistance (x y : Nat) : Nat := if x ≤ y then y - x else x - y

/-- The largest distance of a channel of `c` from that of `t` (R133). -/
def colorDistance (c t : Color) : Nat := (List.zipWith channelDistance (channelsOf c) (channelsOf t)).foldl max 0

theorem colorDistance_le_iff (c t : Color) (k : Nat) :
    colorDistance c t ≤ k ↔ channelDistance (red c).toNat (red t).toNat ≤ k ∧
      channelDistance (green c).toNat (green t).toNat ≤ k ∧ channelDistance (blue c).toNat (blue t).toNat ≤ k := by
  simp [colorDistance, channelsOf_eq]

theorem channelDistance_le_zero_iff (x y : Nat) : channelDistance x y ≤ 0 ↔ x = y := by
  unfold channelDistance
  split <;> omega

/-- A step walks one unit of the distance, if any is left. -/
theorem channelDistance_morphChannel (x y : Nat) : channelDistance (morphChannel x y) y = channelDistance x y - 1 := by
  unfold morphChannel channelDistance
  split
  · rw [if_pos (by omega), if_pos (by omega)]; omega
  · split
    · rw [if_neg (show ¬ x ≤ y by omega)]; split <;> omega
    · rw [if_pos (by omega)]; omega

theorem colorDistance_le_zero_iff (c t : Color) : colorDistance c t ≤ 0 ↔ c = t := by
  simp only [colorDistance_le_iff, channelDistance_le_zero_iff]
  refine ⟨fun ⟨hr, hg, hb⟩ => color_ext hr hg hb, ?_⟩
  rintro rfl
  exact ⟨rfl, rfl, rfl⟩

/-- Between concrete colours one morph walks one unit of the largest distance. -/
theorem colorDistance_morph_le_iff {c t : Color} (hc : isConcrete c = true) (ht : isConcrete t = true) (k : Nat) :
    colorDistance (morph c t) t ≤ k ↔ colorDistance c t ≤ k + 1 := by
  obtain ⟨hr, hg, hb⟩ := morph_channels c t
  obtain ⟨hcr, hcg, hcb⟩ := (isConcrete_iff c).1 hc
  obtain ⟨htr, htg, htb⟩ := (isConcrete_iff t).1 ht
  rw [masked_of_le hcr, masked_of_le htr] at hr
  rw [masked_of_le hcg, masked_of_le htg] at hg
  rw [masked_of_le hcb, masked_of_le htb] at hb
  simp only [colorDistance_le_iff, hr, hg, hb, channelDistance_morphChannel, Nat.sub_le_iff_le_add]

theorem iterate_morph_eq_iff {t : Color} (ht : isConcrete t = true) (k : Nat) {c : Color} (hc : isConcrete c = true) :
    (fun c => morph c t)^[k] c = t ↔ colorDistance c t ≤ k := by
  induction k generalizing c with
  | zero => exact (colorDistance_le_zero_iff c t).symm
  | succ k ih => rw [Function.iterate_succ_apply, ih (morph_concrete c t), colorDistance_morph_le_iff hc ht]

/-- Settles O46: the masked base is concrete, and each of the `k` steps walks one unit of the distance. -/
theorem morphConverges : Obligations.MorphConverges := fun _ _ _ k ht hx0 =>
  iterate_morph_eq_iff ((concrete_iff _).1 ht) k (isConcrete_of_channelWise hx0)

end Sys2Proof.Machine

/-! Expansion of a colour and the answers it takes (40_color_math R124, R125, R130, R132, R134). -/

namespace Sys2Proof.Machine

/-! ## A colour made of three numbers -/

theorem rgb_ofNat_toNat {r g b : Nat} (hr : r ≤ 127) (hg : g ≤ 127) (hb : b ≤ 127) :
    (rgb (BitVec.ofNat 8 r) (BitVec.ofNat 8 g) (BitVec.ofNat 8 b)).toNat = r * 65536 + g * 256 + b := by
  simp only [rgb_toNat, BitVec.toNat_ofNat]
  omega

theorem channelsOf_rgb_ofNat {r g b : Nat} (hr : r ≤ 127) (hg : g ≤ 127) (hb : b ≤ 127) :
    channelsOf (rgb (BitVec.ofNat 8 r) (BitVec.ofNat 8 g) (BitVec.ofNat 8 b)) = [r, g, b] := by
  simp only [channelsOf, rgb_ofNat_toNat hr hg hb, List.cons.injEq, and_true]
  omega

/-! ## The cases of R124 -/

/-- The model's `expand` is the relation that R124 states, for every word. -/
theorem expands_expand (c : Color) (p : RandomPort) : Expands c p (expand c p).1 (expand c p).2 := by
  rcases expand_cases c p with ⟨h, h', he⟩ | ⟨rfl, r, g, b, hr, hg, hb, he⟩ | ⟨rfl, r, g, b, hr, hg, hb, he⟩
  · rw [he]
    exact .inl ⟨h, h', rfl, rfl⟩
  · rw [he]
    exact .inr (.inl ⟨rfl, r, g, b, hr, hg, hb, rgb_ofNat_toNat hr hg hb, rfl, rfl⟩)
  · rw [he]
    exact .inr (.inr ⟨rfl, r, g, b, hr, hg, hb, rgb_ofNat_toNat (by omega) (by omega) (by omega), rfl, rfl⟩)

/-- Settles O19, by the cases of `expand`. -/
theorem expandDrawsSentinels : Obligations.ExpandDrawsSentinels := fun s =>
  ⟨_, _, _, expands_expand s.opa s.random, errStatus_withErr .ok s.status, rfl⟩

/-- Settles O47: a channel of mix, dim and morph is a formula on 7-bit numbers, and a valid word expands to such channels. -/
theorem colourMathIsClosed : Obligations.ColourMathIsClosed := by
  simp only [Obligations.ColourMathIsClosed, concrete_iff]
  refine ⟨fun a b n => ⟨mix_concrete a b n, dim_concrete a n, morph_concrete a b⟩, fun c p h => ?_⟩
  exact expand_concrete p ((isValid_iff c).2 (by rwa [concrete_iff]))

/-! ## Ready answers -/

/-- Three ready answers that lie in the request's range are the answers given, in their order. -/
theorem askThree_queued {q : DrawRequest} {p : RandomPort} {x y z : Nat} (h : p.queued = [x, y, z])
    (hx : requestLo q ≤ x ∧ x ≤ requestHi q) (hy : requestLo q ≤ y ∧ y ≤ requestHi q)
    (hz : requestLo q ≤ z ∧ z ≤ requestHi q) : (askThree q p).1 = (x, y, z) := by
  have h1 : (ask q p).2.queued = [y, z] := congrArg List.tail h
  have h2 : (ask q (ask q p).2).2.queued = [z] := congrArg List.tail h1
  exact congrArg₂ Prod.mk (nextAnswer_queued h hx.1 hx.2)
    (congrArg₂ Prod.mk (nextAnswer_queued h1 hy.1 hy.2) (nextAnswer_queued h2 hz.1 hz.2))

theorem channelsOf_expand_random {r g b : Nat} {p : RandomPort} (hr : r ≤ 127) (hg : g ≤ 127) (hb : b ≤ 127)
    (h : p.queued = [r, g, b]) : channelsOf (expand randomColor p).1 = [r, g, b] := by
  have hask : (askThree .draw7 p).1 = (r, g, b) :=
    askThree_queued h ⟨Nat.zero_le r, hr⟩ ⟨Nat.zero_le g, hg⟩ ⟨Nat.zero_le b, hb⟩
  simp only [expand, if_true, hask]
  exact channelsOf_rgb_ofNat hr hg hb

theorem channelsOf_expand_primary {r g b : Nat} {p : RandomPort} (hr : r ≤ 1) (hg : g ≤ 1) (hb : b ≤ 1)
    (h : p.queued = [r, g, b]) : channelsOf (expand randomPrimaryColor p).1 = [127 * r, 127 * g, 127 * b] := by
  have hask : (askThree .drawBit p).1 = (r, g, b) :=
    askThree_queued h ⟨Nat.zero_le r, hr⟩ ⟨Nat.zero_le g, hg⟩ ⟨Nat.zero_le b, hb⟩
  have hne : randomPrimaryColor ≠ randomColor := by decide
  simp only [expand, if_neg hne, if_true, hask]
  exact channelsOf_rgb_ofNat (by omega) (by omega) (by omega)

/-- Settles O48: the cases of `expand`, and the three ready answers of each sentinel. -/
theorem expandTakesAnyAnswers : Obligations.ExpandTakesAnyAnswers :=
  ⟨expands_expand, fun _ _ _ _ hr hg hb h => channelsOf_expand_random hr hg hb h,
    fun _ _ _ _ hr hg hb h => channelsOf_expand_primary hr hg hb h⟩

end Sys2Proof.Machine

/-! Every draw of every step is made in order and answered in its range (40_color_math R125; 70_reset R291). -/

namespace Sys2Proof.Machine

/-! ## Chains of requests -/

theorem DrawsInOrder.refl (p : RandomPort) : DrawsInOrder p p :=
  ⟨[], by simp, by simp⟩

/-- The draws of the second part take the ready answers that the first part left. -/
theorem DrawsInOrder.trans {p q r : RandomPort} (hpq : DrawsInOrder p q) (hqr : DrawsInOrder q r) :
    DrawsInOrder p r := by
  obtain ⟨ds, rfl, hds⟩ := hpq
  obtain ⟨es, rfl, hes⟩ := hqr
  refine ⟨ds ++ es, by simp, fun j d hj => ?_⟩
  by_cases hlt : j < ds.length
  · exact hds j d (by rwa [List.getElem?_append_left hlt] at hj)
  · have hle : ds.length ≤ j := Nat.le_of_not_lt hlt
    rw [List.getElem?_append_right hle] at hj
    obtain ⟨hlo, hhi, hready⟩ := hes _ d hj
    refine ⟨hlo, hhi, fun v hv => hready v ?_⟩
    rwa [List.getElem?_drop, Nat.add_sub_cancel' hle]

/-- One request takes one ready answer. -/
theorem ask_drawsInOrder {q : DrawRequest} (h : Askable q) (p : RandomPort) : DrawsInOrder p (ask q p).2 := by
  refine ⟨[⟨q, nextAnswer q p⟩], by simp [ask], fun j d hj => ?_⟩
  obtain ⟨rfl, rfl⟩ : j = 0 ∧ d = ⟨q, nextAnswer q p⟩ := by
    cases j with
    | zero => exact ⟨rfl, (Option.some.inj hj).symm⟩
    | succ j => simp at hj
  obtain ⟨hlo, hhi⟩ := nextAnswer_mem p h
  refine ⟨hlo, hhi, fun v hv hvlo hvhi => ?_⟩
  obtain ⟨rest, hq⟩ : ∃ rest, p.queued = v :: rest := by
    cases hqueued : p.queued with
    | nil => simp [hqueued] at hv
    | cons x xs => exact ⟨xs, by simpa [hqueued] using hv⟩
  exact nextAnswer_queued hq hvlo hvhi

theorem askThree_drawsInOrder {q : DrawRequest} (h : Askable q) (p : RandomPort) :
    DrawsInOrder p (askThree q p).2 :=
  ((ask_drawsInOrder h p).trans (ask_drawsInOrder h _)).trans (ask_drawsInOrder h _)

theorem expand_drawsInOrder (c : Color) (p : RandomPort) : DrawsInOrder p (expand c p).2 := by
  unfold expand
  split
  · exact askThree_drawsInOrder askable_draw7 p
  · split
    · exact askThree_drawsInOrder askable_drawBit p
    · exact .refl p

theorem expand_expand_drawsInOrder (a b : Color) (p : RandomPort) : DrawsInOrder p (expand b (expand a p).2).2 :=
  (expand_drawsInOrder a p).trans (expand_drawsInOrder b _)

/-! ## SOLID, PULSE, CYLON and ALTERNATE -/

theorem execAdvSolid_drawsInOrder {s t : State} (h : execAdvSolid s = .next t) : DrawsInOrder s.random t.random := by
  cases h
  exact expand_drawsInOrder s.actColorA s.random

theorem pulseEntry_drawsInOrder {s : State} {p : PulseState} {r : RandomPort} (h : pulseEntry s = some (p, r)) :
    DrawsInOrder s.random r := by
  unfold pulseEntry at h
  split at h
  · cases h
    exact expand_expand_drawsInOrder _ _ _
  · split at h
    · cases h
      exact .refl _
    · cases h

theorem pulseStep_drawsInOrder (a b : Color) (p : PulseState) (r : RandomPort) :
    DrawsInOrder r (pulseStep a b p r).2 := by
  unfold pulseStep
  split
  · split
    · exact expand_drawsInOrder a r
    · exact .refl r
  · split
    · exact expand_drawsInOrder b r
    · exact .refl r

theorem execAdvPulse_drawsInOrder {s t : State} (h : execAdvPulse s = .next t) : DrawsInOrder s.random t.random := by
  obtain ⟨p, r, he⟩ := execAdvPulse_next h
  cases (execAdvPulse_of_entry he).symm.trans h
  exact (pulseEntry_drawsInOrder he).trans (pulseStep_drawsInOrder _ _ p r)

theorem cylonEntry_drawsInOrder {s : State} {p : CylonState} {r : RandomPort} (h : cylonEntry s = some (p, r)) :
    DrawsInOrder s.random r := by
  unfold cylonEntry at h
  split at h
  · cases h
    exact expand_expand_drawsInOrder _ _ _
  · split at h
    · cases h
      exact .refl _
    · cases h

theorem cylonStep_drawsInOrder (pixels : Nat) (a b : Color) (p : CylonState) (r : RandomPort) :
    DrawsInOrder r (cylonStep pixels a b p r).2 := by
  unfold cylonStep
  split
  · exact expand_expand_drawsInOrder a b r
  · exact .refl r

theorem execAdvCylon_drawsInOrder {s t : State} (h : execAdvCylon s = .next t) : DrawsInOrder s.random t.random := by
  obtain ⟨p, r, he⟩ := execAdvCylon_next h
  cases (execAdvCylon_of_entry he).symm.trans h
  exact (cylonEntry_drawsInOrder he).trans (cylonStep_drawsInOrder _ _ _ p r)

theorem execAdvAlternate_drawsInOrder {s t : State} (h : execAdvAlternate s = .next t) :
    DrawsInOrder s.random t.random := by
  obtain ⟨phase, he⟩ := execAdvAlternate_next h
  cases (execAdvAlternate_of_entry he).symm.trans h
  exact expand_expand_drawsInOrder _ _ _

/-! ## FLICKER -/

theorem flickerWalk_drawsInOrder (a b : Color) (speed : Word) (d : Nat) (p : FlickerState) (r : RandomPort) :
    DrawsInOrder r (flickerWalk a b speed d p r).2 := by
  unfold flickerWalk
  dsimp only
  split
  · exact expand_drawsInOrder a r
  · split
    · exact expand_drawsInOrder b r
    · exact .refl r

theorem execAdvFlicker_drawsInOrder {s t : State} (h : execAdvFlicker s = .next t) :
    DrawsInOrder s.random t.random := by
  unfold execAdvFlicker at h
  split at h
  · cases h
    exact expand_expand_drawsInOrder _ _ _
  · split at h
    · next p _ =>
      cases h
      rw [flickerContinue_flip rfl rfl]
      exact (ask_drawsInOrder (q := .drawRange 0 2) (Nat.zero_le 2) s.random).trans (flickerWalk_drawsInOrder _ _ _ _ p _)
    · cases h

/-! ## LAVA -/

theorem initialBlobs_drawsInOrder {offMax : Nat} (h : 1 ≤ offMax) (n : Nat) (p : RandomPort) :
    DrawsInOrder p (initialBlobs offMax n p).2 := by
  induction n generalizing p with
  | zero => exact .refl p
  | succ n ih => exact (ask_drawsInOrder (q := .drawRange 1 offMax) h p).trans (ih _)

/-- Each range of a spawn holds a value: positions on the strip, and a time of at least 1 (00_scope R8). -/
theorem spawn_drawsInOrder (params : Params) (a : Color) (r : RandomPort) :
    DrawsInOrder r (spawn params a r).2 := by
  have hpos := ask_drawsInOrder (q := .drawRange 0 (params.pixels - 1)) (Nat.zero_le _)
  have hdur := ask_drawsInOrder (q := .drawRange 1 params.lavaOnMax) params.lavaOnMax_pos
  exact (((hpos r).trans (hpos _)).trans (hdur _)).trans (expand_drawsInOrder a _)

theorem despawn_drawsInOrder (params : Params) (spot : Spot) (r : RandomPort) :
    DrawsInOrder r (despawn params spot r).2 :=
  ask_drawsInOrder (q := .drawRange 1 params.lavaOffMax) params.lavaOffMax_pos r

theorem blobStep_drawsInOrder (params : Params) (a : Color) (b : Blob) (r : RandomPort) :
    DrawsInOrder r (blobStep params a b r).2 := by
  rcases blobStep_cases params a b r with ⟨-, he⟩ | ⟨-, spot, -, he⟩ | ⟨-, -, he⟩
  · rw [he]; exact .refl r
  · rw [he]; exact despawn_drawsInOrder params spot r
  · rw [he]; exact spawn_drawsInOrder params a r

theorem stepBlobs_drawsInOrder (params : Params) (a : Color) (bs : List Blob) (r : RandomPort) :
    DrawsInOrder r (stepBlobs params a bs r).2 := by
  induction bs generalizing r with
  | nil => exact .refl r
  | cons b bs ih => exact (blobStep_drawsInOrder params a b r).trans (ih _)

theorem lavaEntry_drawsInOrder {s : State} {p : LavaState} {r : RandomPort} (h : lavaEntry s = some (p, r)) :
    DrawsInOrder s.random r := by
  unfold lavaEntry at h
  split at h
  · cases h
    exact (expand_drawsInOrder _ _).trans (initialBlobs_drawsInOrder s.params.lavaOffMax_pos _ _)
  · split at h
    · split at h
      · cases h
        exact .refl _
      · cases h
    · cases h

theorem execAdvLava_drawsInOrder {s t : State} (h : execAdvLava s = .next t) : DrawsInOrder s.random t.random := by
  obtain ⟨p, r, he⟩ := execAdvLava_next h
  cases (execAdvLava_of_entry he).symm.trans h
  exact (lavaEntry_drawsInOrder he).trans (stepBlobs_drawsInOrder _ _ p.blobs r)

/-! ## Commands, transactions and steps -/

/-- The advance operation of a kind (30_encoding R98). -/
theorem exec_kind_drawsInOrder {k : Kind} {s t : State} (h : exec k.toInstr s = .next t) :
    DrawsInOrder s.random t.random := by
  cases k with
  | solid => exact execAdvSolid_drawsInOrder h
  | pulse => exact execAdvPulse_drawsInOrder h
  | cylon => exact execAdvCylon_drawsInOrder h
  | alternate => exact execAdvAlternate_drawsInOrder h
  | flicker => exact execAdvFlicker_drawsInOrder h
  | lava => exact execAdvLava_drawsInOrder h

theorem advance_drawsInOrder {s t : State} (h : advance s = .next t) : DrawsInOrder s.random t.random := by
  cases hk : decodeKind s.actKind with
  | some k => exact exec_kind_drawsInOrder ((advance_eq hk).symm.trans h)
  | none =>
    unfold advance at h
    rw [hk] at h
    cases h

theorem execTick_drawsInOrder {s t : State} (h : execTick s = .next t) : DrawsInOrder s.random t.random := by
  rcases execTick_cases h with ⟨-, rfl⟩ | ⟨-, u, hu, rfl⟩
  · exact .refl s.random
  · simpa using advance_drawsInOrder hu

/-- Only TICK and EXPAND draw. -/
theorem runCommand_drawsInOrder {c : Command} {s t : State} (h : runCommand c s = .next t) :
    DrawsInOrder s.random t.random := by
  cases c with
  | tick => exact execTick_drawsInOrder h
  | expand =>
    cases h
    exact expand_drawsInOrder s.opa s.random
  | setpat =>
    rcases execSetpat_cases s with ⟨-, he⟩ | ⟨-, -, he⟩ | ⟨-, -, -, he⟩ <;>
    · cases he.symm.trans h
      exact .refl s.random
  | nop | mix | dim | morph | parse =>
    cases h
    exact .refl s.random

theorem storeHostReg_random (r : HostReg) (v : Word) (s : State) : (storeHostReg r v s).random = s.random := by
  cases r <;> rfl

theorem busError_random (op : BusOp) (s : State) : (busError op s).random = s.random := by
  cases op <;> rfl

theorem execWr_drawsInOrder {off : Offset} {v : Word} {s t : State} (h : execWr off v s = .next t) :
    DrawsInOrder s.random t.random := by
  rcases execWr_cases h with ⟨r, -, -, rfl⟩ | rfl | ⟨-, ⟨c, u, -, hu, rfl⟩ | ⟨-, rfl⟩⟩
  · rw [answer_random, storeHostReg_random]
    exact .refl s.random
  · rw [busError_random]
    exact .refl s.random
  · simpa using runCommand_drawsInOrder hu
  · exact .refl s.random

/-- Settles O43: among the inputs only a write draws, and only by the command it runs. -/
theorem randomAnswersAreTakenInOrder : Obligations.RandomAnswersAreTakenInOrder := by
  intro s t h
  rcases step_cases h with rfl | ⟨rest, -, rfl⟩ | ⟨x, rest, -, ⟨op, rfl⟩ | ⟨-, -, hr⟩ | ⟨v, -, -, hw⟩⟩
  · exact .refl _
  · exact .refl s.random
  · rw [busError_random]
    exact .refl s.random
  · obtain ⟨r, n, rfl⟩ := execRd_effect hr
    exact .refl s.random
  · simpa using execWr_drawsInOrder hw

end Sys2Proof.Machine

/-! One advance of each pattern in its own words: SOLID, PULSE, CYLON, ALTERNATE and FLICKER (41_patterns R152 to R161). -/

namespace Sys2Proof.Machine

/-! ## SOLID -/

/-- Settles O26: the advance is one expansion and one frame of it. -/
theorem solidDrawsOneColour : Obligations.SolidDrawsOneColour := fun s =>
  ⟨_, _, expands_expand s.actColorA s.random, rfl⟩

/-! ## PULSE -/

theorem pulseEntry_initial {s : State} (h : s.advInitial = true) :
    pulseEntry s = some
      ({ left := (expand s.actColorA s.random).1,
         right := (expand s.actColorB (expand s.actColorA s.random).2).1, up := true, count := 0 },
        (expand s.actColorB (expand s.actColorA s.random).2).2) :=
  if_pos h

theorem pulseEntry_later {s : State} {q : PulseState} (h : s.advInitial = false) (hps : s.ps = .pulse q) :
    pulseEntry s = some (q, s.random) := by
  unfold pulseEntry
  rw [h, hps]
  rfl

section

variable (a b : Color) {q : PulseState} (r : RandomPort)

theorem pulseStep_rising (hu : q.up = true) (h : q.count.toNat < 126) :
    pulseStep a b q r = ({ q with count := q.count + 1 }, r) := by
  have hc : q.count + 1 ≠ 127 := by bv_omega
  unfold pulseStep
  rw [if_pos hu, if_neg hc]

theorem pulseStep_at_top (hu : q.up = true) (h : q.count.toNat = 126) :
    pulseStep a b q r = ({ q with left := (expand a r).1, up := false, count := 127 }, (expand a r).2) := by
  have hc : q.count + 1 = 127 := by bv_omega
  unfold pulseStep
  rw [if_pos hu, if_pos hc, hc]

theorem pulseStep_falling (hu : q.up = false) (h : 1 < q.count.toNat) :
    pulseStep a b q r = ({ q with count := q.count - 1 }, r) := by
  have hc : q.count - 1 ≠ 0 := by bv_omega
  unfold pulseStep
  rw [if_neg (by simp [hu]), if_neg hc]

theorem pulseStep_at_bottom (hu : q.up = false) (h : q.count.toNat = 1) :
    pulseStep a b q r = ({ q with right := (expand b r).1, up := true, count := 0 }, (expand b r).2) := by
  have hc : q.count - 1 = 0 := by bv_omega
  unfold pulseStep
  rw [if_neg (by simp [hu]), if_pos hc, hc]

end

/-- An advance whose entry state and step are known: the blend of the entry state, then the stepped state (R153). -/
theorem execAdvPulse_of_step {s : State} {q n : PulseState} {r p : RandomPort} (he : pulseEntry s = some (q, r))
    (hn : pulseStep s.actColorA s.actColorB q r = (n, p)) :
    execAdvPulse s = .next { s with
      ps := .pulse n, random := p, advDelay := BitVec.ofNat 32 (s.actSpeed.toNat / 127),
      out := s.out ++ oneFrame (List.replicate s.params.pixels (mix q.left q.right q.count)) } := by
  rw [execAdvPulse_of_entry he, hn]
  rfl

/-- Settles O27: the reset state is blended at 0 and steps up. -/
theorem pulseStartsFromLeft : Obligations.PulseStartsFromLeft := by
  intro s hi
  have hl := expands_expand s.actColorA s.random
  have he := pulseEntry_initial hi
  generalize expand s.actColorA s.random = l at hl he
  have hr := expands_expand s.actColorB l.2
  generalize expand s.actColorB l.2 = r at hr he
  have hstep : pulseStep s.actColorA s.actColorB ⟨l.1, r.1, true, 0⟩ r.2 = (⟨l.1, r.1, true, 1⟩, r.2) :=
    pulseStep_rising _ _ _ rfl (show (0 : BitVec 7).toNat < 126 by decide)
  have hexec := execAdvPulse_of_step he hstep
  exact ⟨l.1, l.2, r.1, r.2, mix l.1 r.1 0, hl, hr, mix_zero_channelWise l.1 r.1, hexec⟩

/-- Settles O28: the four cases of the step. -/
theorem pulseStepsAndTurns : Obligations.PulseStepsAndTurns := by
  intro s q hi hps
  have he := pulseEntry_later hi hps
  refine ⟨_, mix_channelWise q.left q.right q.count, fun hu hc => ?_, fun hu hc => ?_, fun hu hc => ?_, fun hu hc => ?_⟩
  · exact ⟨q.count + 1, by bv_omega, execAdvPulse_of_step he (pulseStep_rising _ _ _ hu hc)⟩
  · exact ⟨_, _, expands_expand s.actColorA s.random, execAdvPulse_of_step he (pulseStep_at_top _ _ _ hu hc)⟩
  · exact ⟨q.count - 1, by bv_omega, execAdvPulse_of_step he (pulseStep_falling _ _ _ hu hc)⟩
  · exact ⟨_, _, expands_expand s.actColorB s.random, execAdvPulse_of_step he (pulseStep_at_bottom _ _ _ hu hc)⟩

/-! ## CYLON -/

theorem cylonEntry_initial {s : State} (h : s.advInitial = true) :
    cylonEntry s = some
      ({ down := false, pos := 0, eye := (expand s.actColorA s.random).1,
         background := (expand s.actColorB (expand s.actColorA s.random).2).1 },
        (expand s.actColorB (expand s.actColorA s.random).2).2) :=
  if_pos h

theorem cylonEntry_later {s : State} {q : CylonState} (h : s.advInitial = false) (hps : s.ps = .cylon q) :
    cylonEntry s = some (q, s.random) := by
  unfold cylonEntry
  rw [h, hps]
  rfl

theorem cylonStep_of_inside {P : Nat} {q : CylonState} (a b : Color) (r : RandomPort)
    (h : cylonBounces P q = false) :
    cylonStep P a b q r = ({ q with pos := BitVec.ofInt 16 (cylonNext q.down q.pos) }, r) :=
  if_neg (by simp [h])

theorem cylonStep_of_bounce {P : Nat} {q : CylonState} (a b : Color) (r : RandomPort)
    (h : cylonBounces P q = true) :
    cylonStep P a b q r =
      ({ down := !q.down, pos := BitVec.ofInt 16 (cylonTurned P q), eye := (expand a r).1,
         background := (expand b (expand a r).2).1 }, (expand b (expand a r).2).2) :=
  if_pos h

theorem cylonDelay_of_inside {P : Nat} {q : CylonState} (v : Word) (h : cylonBounces P q = false) :
    cylonDelay P v q = BitVec.ofNat 32 (v.toNat / (2 * P)) :=
  congrArg (BitVec.ofNat 32) (if_neg (by simp [h]))

theorem cylonDelay_of_bounce {P : Nat} {q : CylonState} (v : Word) (h : cylonBounces P q = true) :
    cylonDelay P v q = BitVec.ofNat 32 (3 * (v.toNat / (2 * P))) :=
  congrArg (BitVec.ofNat 32) (if_pos h)

/-- Inside the strip: one step, no draw, the plain delay (R155). -/
theorem execAdvCylon_of_inside {s : State} {q : CylonState} {r : RandomPort} (he : cylonEntry s = some (q, r))
    (hb : cylonBounces s.params.pixels q = false) :
    execAdvCylon s = .next { s with
      ps := .cylon { q with pos := BitVec.ofInt 16 (cylonNext q.down q.pos) }, random := r,
      advDelay := BitVec.ofNat 32 (s.actSpeed.toNat / (2 * s.params.pixels)),
      out := s.out ++ oneFrame ((List.range s.params.pixels).map (cylonPixel s.params.cylonEdgeN q)) } := by
  rw [execAdvCylon_of_entry he, cylonStep_of_inside _ _ _ hb, cylonDelay_of_inside _ hb]
  rfl

/-- At an end: the direction turns, both colours are expanded again, the delay is tripled (R155). -/
theorem execAdvCylon_of_bounce {s : State} {q : CylonState} {r : RandomPort} (he : cylonEntry s = some (q, r))
    (hb : cylonBounces s.params.pixels q = true) :
    execAdvCylon s = .next { s with
      ps := .cylon
        { down := !q.down, pos := BitVec.ofInt 16 (cylonTurned s.params.pixels q), eye := (expand s.actColorA r).1,
          background := (expand s.actColorB (expand s.actColorA r).2).1 },
      random := (expand s.actColorB (expand s.actColorA r).2).2,
      advDelay := BitVec.ofNat 32 (3 * (s.actSpeed.toNat / (2 * s.params.pixels))),
      out := s.out ++ oneFrame ((List.range s.params.pixels).map (cylonPixel s.params.cylonEdgeN q)) } := by
  rw [execAdvCylon_of_entry he, cylonStep_of_bounce _ _ _ hb, cylonDelay_of_bounce _ hb]
  rfl

theorem toNat_ofInt_natCast {n : Nat} (h : n < 2 ^ 16) : (BitVec.ofInt 16 (n : Int)).toNat = n := by
  rw [BitVec.ofInt_natCast, BitVec.toNat_ofNat, Nat.mod_eq_of_lt h]

section

variable {params : Params} {q : CylonState}

theorem cylonBounces_eq_false_iff (h : q.pos.toNat < params.pixels) :
    cylonBounces params.pixels q = false ↔
      ¬ ((q.down = true ∧ q.pos.toNat = 0) ∨ (q.down = false ∧ q.pos.toNat + 1 = params.pixels)) := by
  rw [← cylonBounces_iff h, Bool.not_eq_true]

/-- The position after a step inside the strip (R155). -/
theorem cylonNext_toNat (h : q.pos.toNat < params.pixels) (hb : cylonBounces params.pixels q = false) :
    (BitVec.ofInt 16 (cylonNext q.down q.pos)).toNat = if q.down then q.pos.toNat - 1 else q.pos.toNat + 1 := by
  have hP := params.pixels_le
  rw [cylonBounces_eq_false_iff h] at hb
  unfold cylonNext
  cases hd : q.down with
  | true =>
    have hpos : q.pos.toNat ≠ 0 := fun h0 => hb (.inl ⟨hd, h0⟩)
    have hnext : (q.pos.toNat : Int) + -1 = ((q.pos.toNat - 1 : Nat) : Int) := by omega
    simpa only [if_true, hnext] using toNat_ofInt_natCast (by omega)
  | false =>
    have hpos : q.pos.toNat + 1 ≠ params.pixels := fun h0 => hb (.inr ⟨hd, h0⟩)
    exact toNat_ofInt_natCast (n := q.pos.toNat + 1) (by omega)

/-- The position after a bounce (R155). -/
theorem cylonTurned_toNat (h : q.pos.toNat < params.pixels) (hb : cylonBounces params.pixels q = true) :
    (BitVec.ofInt 16 (cylonTurned params.pixels q)).toNat =
      if params.pixels = 1 then 0 else if q.down then 1 else q.pos.toNat - 1 := by
  have hP := params.pixels_le
  rw [cylonTurned_eq hb h]
  rw [cylonBounces_iff h] at hb
  by_cases h1 : params.pixels = 1
  · simp [h1]
  · cases hd : q.down with
    | true => simp [h1]
    | false =>
      have hpos : (q.pos.toNat : Int) - 1 = ((q.pos.toNat - 1 : Nat) : Int) := by
        simp only [hd, Bool.false_eq_true, false_and, true_and, false_or] at hb
        omega
      simp only [h1, Bool.false_eq_true, if_false, hpos]
      exact toNat_ofInt_natCast (by omega)

end

/-- The first frame of a strip of two pixels or more: the eye, its one edge and the background (R156). -/
theorem cylonFrame_at_zero {P : Nat} (h : 2 ≤ P) (n : Ratio) {q : CylonState} (hq : q.pos = 0) :
    (List.range P).map (cylonPixel n q) = q.eye :: dim q.eye n :: List.replicate (P - 2) q.background := by
  obtain ⟨m, rfl⟩ := Nat.exists_eq_add_of_le' h
  have hrest : ∀ i, cylonPixel n q (i + 2) = q.background := by simp [cylonPixel, hq]
  have h0 : cylonPixel n q 0 = q.eye := by simp [cylonPixel, hq]
  have h1 : cylonPixel n q 1 = dim q.eye n := by simp [cylonPixel, hq]
  simp [List.range_succ_eq_map, Function.comp_def, hrest, h0, h1, List.map_const']

/-- Settles O30: from position 0 going up, one pixel makes it a bounce and more do not. -/
theorem cylonStartsAtZero : Obligations.CylonStartsAtZero := by
  intro s hi
  have hA := expands_expand s.actColorA s.random
  have he := cylonEntry_initial hi
  generalize expand s.actColorA s.random = e at hA he
  have hB := expands_expand s.actColorB e.2
  generalize expand s.actColorB e.2 = g at hB he
  refine ⟨e.1, e.2, g.1, g.2, _, hA, hB, dim_channelWise e.1 s.params.cylonEdgeN, fun hP => ?_, fun hP => ?_⟩
  · have hb : cylonBounces s.params.pixels ⟨false, 0, e.1, g.1⟩ = false := by
      refine (cylonBounces_eq_false_iff (q := ⟨false, 0, e.1, g.1⟩) s.params.pixels_pos).2 ?_
      rintro (⟨hd, -⟩ | ⟨-, hend⟩)
      · cases hd
      · exact absurd hend (Nat.ne_of_lt hP)
    have hframe := cylonFrame_at_zero hP s.params.cylonEdgeN (q := ⟨false, 0, e.1, g.1⟩) rfl
    have hexec := execAdvCylon_of_inside he hb
    rw [hframe] at hexec
    exact hexec
  · have hb : cylonBounces s.params.pixels ⟨false, 0, e.1, g.1⟩ = true :=
      (cylonBounces_iff s.params.pixels_pos).2 (.inr ⟨rfl, hP.symm⟩)
    have hexec := execAdvCylon_of_bounce he hb
    rw [hP] at hexec
    exact ⟨_, _, _, _, expands_expand s.actColorA g.2, expands_expand s.actColorB _, hexec⟩

/-- Settles O31: the frame of the entry state, then the step or the bounce. -/
theorem cylonStepsAndBounces : Obligations.CylonStepsAndBounces := by
  intro s q hi hps hpos
  have he := cylonEntry_later hi hps
  have hbounce := cylonBounces_iff hpos
  refine ⟨_, dim_channelWise q.eye s.params.cylonEdgeN, fun hn => ?_, fun hend => ?_⟩
  · have hb : cylonBounces s.params.pixels q = false := (cylonBounces_eq_false_iff hpos).2 hn
    refine ⟨_, ?_, execAdvCylon_of_inside he hb⟩
    rw [cylonNext_toNat hpos hb]
    cases hd : q.down with
    | true =>
      have hpos0 : q.pos.toNat ≠ 0 := fun h0 => hn (.inl ⟨hd, h0⟩)
      exact Nat.sub_add_cancel (Nat.pos_of_ne_zero hpos0)
    | false => rfl
  · have hb := hbounce.2 hend
    refine ⟨_, _, _, _, _, expands_expand s.actColorA s.random, expands_expand s.actColorB _, ?_,
      execAdvCylon_of_bounce he hb⟩
    rw [cylonTurned_toNat hpos hb]
    split
    · rfl
    · next h1 =>
      cases hd : q.down with
      | true => rfl
      | false =>
        have hpos0 : 0 < q.pos.toNat := by
          simp only [hd, Bool.false_eq_true, false_and, true_and, false_or] at hend
          omega
        exact Nat.sub_add_cancel hpos0

/-! ## ALTERNATE -/

theorem alternateEntry_initial {s : State} (h : s.advInitial = true) : alternateEntry s = some false :=
  if_pos h

theorem alternateEntry_later {s : State} {phase : Bool} (h : s.advInitial = false) (hps : s.ps = .alternate phase) :
    alternateEntry s = some phase := by
  unfold alternateEntry
  rw [h, hps]
  rfl

theorem alternatePixel_eq (phase : Bool) (a b : Color) (i : Nat) :
    alternatePixel phase a b i = if phase then (if i % 2 = 1 then a else b) else (if i % 2 = 1 then b else a) := by
  unfold alternatePixel
  rcases Nat.mod_two_eq_zero_or_one i with h | h <;> cases phase <;> simp [h]

/-- Settles O33: both kinds of advance start from a phase, and the pixels are coloured from it. -/
theorem alternateSwapsParity : Obligations.AlternateSwapsParity := by
  intro s phase h
  have he : alternateEntry s = some phase := by
    rcases h with ⟨hi, rfl⟩ | ⟨hi, hps⟩
    · exact alternateEntry_initial hi
    · exact alternateEntry_later hi hps
  refine ⟨_, _, _, _, expands_expand s.actColorA s.random, expands_expand s.actColorB _, ?_⟩
  have hexec := execAdvAlternate_of_entry he
  simp only [funext (alternatePixel_eq phase _ _)] at hexec
  exact hexec

/-! ## FLICKER -/

/-- Settles O34: the initial advance in the statement's words. -/
theorem flickerStartsOff : Obligations.FlickerStartsOff := by
  intro s hi
  have hexec : execAdvFlicker s = .next (returnDelay 10 (flickerStart s)) := if_pos hi
  exact ⟨_, _, _, _, _, expands_expand s.actColorA s.random, expands_expand s.actColorB _, rfl, hexec⟩

theorem execAdvFlicker_later {s : State} {q : FlickerState} (h : s.advInitial = false) (hps : s.ps = .flicker q) :
    execAdvFlicker s = .next (returnDelay 10 (flickerContinue q s)) := by
  unfold execAdvFlicker
  rw [h, hps]
  rfl

/-- One request takes one ready answer and is logged (40_color_math R125). -/
theorem ask_eq (q : DrawRequest) (p : RandomPort) :
    ask q p = (nextAnswer q p, { queued := p.queued.drop 1, asked := p.asked ++ [⟨q, nextAnswer q p⟩] }) := by
  rw [ask, List.drop_one]

/-- Settles O35: one draw, the three cases of the walk, and the frame on a flip. -/
theorem flickerWalksAndFlips : Obligations.FlickerWalksAndFlips := by
  intro s q hi hps hw
  have hd := (nextAnswer_mem s.random (q := .drawRange 0 2) (Nat.zero_le 2)).2
  have hask := ask_eq (.drawRange 0 2) s.random
  generalize nextAnswer (.drawRange 0 2) s.random = d at hd hask
  generalize hr : ({ queued := s.random.queued.drop 1, asked := s.random.asked ++ [⟨.drawRange 0 2, d⟩] } :
    RandomPort) = r at hask
  obtain ⟨hlow, hhigh, hmid⟩ := flickerWalk_cases s.actColorA s.actColorB r hw hd
  have hexec := execAdvFlicker_later hi hps
  generalize hn : flickerWalk s.actColorA s.actColorB s.actSpeed d q r = n at hlow hhigh hmid
  rw [flickerContinue_flip hask hn] at hexec
  refine ⟨d, n.2, { n.1 with showOn := flickerShows s.actSpeed n.1.weight }, hd, ?_, rfl, hexec⟩
  rw [hr]
  refine ⟨fun h => ?_, fun h => ?_, fun h h' => ?_⟩
  · rw [hlow h]
    exact ⟨expands_expand s.actColorA r, rfl, rfl⟩
  · rw [hhigh h]
    exact ⟨expands_expand s.actColorB r, rfl, rfl⟩
  · have hspeed := s.actSpeed.isLt
    rw [hmid h h']
    refine ⟨rfl, rfl, rfl, ?_⟩
    rw [BitVec.toNat_ofNat, Nat.mod_eq_of_lt (by omega)]
    omega

end Sys2Proof.Machine

/-! The runs of PULSE and CYLON over many advances (41_patterns R154, R157). -/

namespace Sys2Proof.Machine

/-! ## Runs of one operation -/

theorem advances_of_next {i : Instr} {s t : State} (h : exec i s = .next t) (k : Nat) :
    advances i (k + 1) s = advances i k { t with advInitial := false } := by
  rw [advances, h]

theorem advances_of_stop {i : Instr} {s : State} (h : ∀ t, exec i s ≠ .next t) (k : Nat) :
    advances i (k + 1) s = none := by
  rw [advances]
  cases he : exec i s with
  | next t => exact absurd he (h t)
  | fault f => rfl
  | refused f => rfl

theorem advances_succ (i : Instr) (k : Nat) (s : State) :
    advances i (k + 1) s = (advances i k s).bind (advances i 1) := by
  induction k generalizing s with
  | zero => rfl
  | succ k ih =>
    by_cases h : ∃ t, exec i s = .next t
    · obtain ⟨t, ht⟩ := h
      rw [advances_of_next ht, advances_of_next ht, ih]
    · rw [advances_of_stop (not_exists.1 h), advances_of_stop (not_exists.1 h), Option.bind_none]

/-- One more advance after a run. -/
theorem advances_succ_of_next {i : Instr} {k : Nat} {s u t : State} (hu : advances i k s = some u)
    (ht : exec i u = .next t) : advances i (k + 1) s = some { t with advInitial := false } := by
  rw [advances_succ, hu, Option.bind_some, advances_of_next ht]
  rfl

/-- A run keeps what every advance of it passes on to the next, for the number `j` of the advance. -/
theorem advances_induction {i : Instr} {R : Nat → State → Prop}
    (hstep : ∀ j u, R j u → ∃ t, exec i u = .next t ∧ R (j + 1) { t with advInitial := false }) {s : State}
    (h0 : R 0 s) (k : Nat) : ∃ u, advances i k s = some u ∧ R k u := by
  induction k with
  | zero => exact ⟨s, rfl, h0⟩
  | succ k ih =>
    obtain ⟨u, hu, hR⟩ := ih
    obtain ⟨t, ht, hR'⟩ := hstep k u hR
    exact ⟨_, advances_succ_of_next hu ht, hR'⟩

/-! ## PULSE -/

/-- What advance number `j` of an activation starts from (R154): the counter of the triangle of period 254. -/
def PulseAt (j : Nat) (q : PulseState) : Prop :=
  q.count.toNat = (if j % 254 ≤ 127 then j % 254 else 254 - j % 254) ∧ q.up = decide (j % 254 < 127)

theorem pulseStep_at {j : Nat} {q : PulseState} (h : PulseAt j q) (a b : Color) (r : RandomPort) :
    PulseAt (j + 1) (pulseStep a b q r).1 := by
  obtain ⟨hcount, hup⟩ := h
  obtain ⟨hcount', hup'⟩ := pulseStep_count a b q r
  unfold PulseAt
  rw [hcount', hup']
  by_cases hj : j % 254 < 127
  · have hu : q.up = true := by rw [hup, decide_eq_true hj]
    rw [if_pos (by omega)] at hcount
    have hnext : (q.count + 1).toNat = j % 254 + 1 := by bv_omega
    have hturn : q.count + 1 = 127 ↔ ¬ (j + 1) % 254 < 127 := by
      rw [← BitVec.toNat_inj, hnext]
      change j % 254 + 1 = 127 ↔ _
      omega
    simp only [hu, if_true, hnext, hturn, decide_not, Bool.not_not]
    exact ⟨by split <;> omega, trivial⟩
  · have hu : q.up = false := by rw [hup, decide_eq_false hj]
    have hnext : (q.count - 1).toNat = 253 - j % 254 := by
      have := Nat.mod_lt j (show 0 < 254 by decide)
      split at hcount <;> bv_omega
    have hturn : q.count - 1 = 0 ↔ (j + 1) % 254 < 127 := by
      rw [← BitVec.toNat_inj, hnext]
      change 253 - j % 254 = 0 ↔ _
      omega
    simp only [hu, Bool.false_eq_true, if_false, hnext, hturn]
    exact ⟨by split <;> omega, trivial⟩

/-- Advance number `j` of an activation finds the entry state of that number. -/
def PulseReady (j : Nat) (s : State) : Prop := ∃ q r, pulseEntry s = some (q, r) ∧ PulseAt j q

theorem execAdvPulse_at {j : Nat} {s : State} (h : PulseReady j s) :
    ∃ t q, exec .advPulse s = .next t ∧ t.ps = .pulse q ∧ PulseAt (j + 1) q := by
  obtain ⟨q, r, he, hq⟩ := h
  exact ⟨_, _, execAdvPulse_of_entry he, rfl, pulseStep_at hq _ _ r⟩

/-- Settles O29, by induction on the advances: each finds what the one before it left. -/
theorem pulseCounterIsPeriodic : Obligations.PulseCounterIsPeriodic := by
  intro k s hi
  have hstep : ∀ j u, PulseReady j u →
      ∃ t, exec .advPulse u = .next t ∧ PulseReady (j + 1) { t with advInitial := false } := by
    intro j u hu
    obtain ⟨t, q, ht, hps, hq⟩ := execAdvPulse_at hu
    exact ⟨t, ht, q, _, pulseEntry_later rfl hps, hq⟩
  obtain ⟨u, hu, hready⟩ := advances_induction hstep (s := s) ⟨_, _, pulseEntry_initial hi, rfl, rfl⟩ k
  obtain ⟨t, q, ht, hps, hq⟩ := execAdvPulse_at hready
  exact ⟨_, q, advances_succ_of_next hu ht, hps, hq⟩

/-! ## CYLON -/

/-- The position that advance number `j` draws on a strip of P pixels (R157). -/
def eyeAt (P j : Nat) : Nat := if j % (2 * (P - 1)) < P then j % (2 * (P - 1)) else 2 * (P - 1) - j % (2 * (P - 1))

/-- What advance number `j` of an activation starts from: past the first pass the eye comes to position 0 going down. -/
def CylonAt (P j : Nat) (q : CylonState) : Prop :=
  q.pos.toNat = eyeAt P j ∧ (q.down = true ↔ (0 < j ∧ j % (2 * (P - 1)) = 0) ∨ P ≤ j % (2 * (P - 1)))

theorem succ_mod_cases {m : Nat} (hm : 2 ≤ m) (j : Nat) :
    (j % m + 1 < m ∧ (j + 1) % m = j % m + 1) ∨ (j % m + 1 = m ∧ (j + 1) % m = 0) := by
  have hj := Nat.mod_lt j (show 0 < m by omega)
  rw [Nat.add_mod_eq_ite, Nat.mod_eq_of_lt (show 1 < m by omega)]
  split <;> omega

/-- Up on the first P numbers of the period, down on the others. -/
theorem eyeAt_cases (P j : Nat) :
    (j % (2 * (P - 1)) < P ∧ eyeAt P j = j % (2 * (P - 1))) ∨
      (P ≤ j % (2 * (P - 1)) ∧ eyeAt P j = 2 * (P - 1) - j % (2 * (P - 1))) := by
  unfold eyeAt
  split <;> omega

theorem eyeAt_zero {P : Nat} (hP : 0 < P) : eyeAt P 0 = 0 := by
  rw [eyeAt, Nat.zero_mod, if_pos hP]

theorem eyeAt_lt {P : Nat} (hP : 2 ≤ P) (j : Nat) : eyeAt P j < P := by
  have hj := Nat.mod_lt j (show 0 < 2 * (P - 1) by omega)
  have hx := eyeAt_cases P j
  omega

/-- The advances that bounce (R157). -/
theorem cylonBounces_at {P j : Nat} {q : CylonState} (hP : 2 ≤ P) (h : CylonAt P j q) :
    cylonBounces P q = true ↔ eyeAt P j = P - 1 ∨ (eyeAt P j = 0 ∧ 0 < j) := by
  obtain ⟨hpos, hdown⟩ := h
  rw [cylonBounces_iff (hpos ▸ eyeAt_lt hP j), hpos, ← Bool.not_eq_true, hdown]
  have hj := Nat.mod_lt j (show 0 < 2 * (P - 1) by omega)
  have hx := eyeAt_cases P j
  omega

/-- The eye's four moves on a strip of two pixels or more: a step or a turn in either direction (R155). -/
theorem cylonStep_cases {params : Params} {q : CylonState} (hP : 2 ≤ params.pixels) (hlt : q.pos.toNat < params.pixels)
    (a b : Color) (r : RandomPort) :
    ∃ n : CylonState, (cylonStep params.pixels a b q r).1 = n ∧
      ((q.down = false ∧ q.pos.toNat + 1 < params.pixels ∧ n.down = false ∧ n.pos.toNat = q.pos.toNat + 1) ∨
        (q.down = false ∧ q.pos.toNat + 1 = params.pixels ∧ n.down = true ∧ n.pos.toNat = q.pos.toNat - 1) ∨
        (q.down = true ∧ 0 < q.pos.toNat ∧ n.down = true ∧ n.pos.toNat = q.pos.toNat - 1) ∨
        (q.down = true ∧ q.pos.toNat = 0 ∧ n.down = false ∧ n.pos.toNat = 1)) := by
  have hends := cylonBounces_iff hlt
  cases hb : cylonBounces params.pixels q with
  | true =>
    have hpos := cylonTurned_toNat hlt hb
    rw [if_neg (by omega)] at hpos
    refine ⟨_, congrArg Prod.fst (cylonStep_of_bounce a b r hb), ?_⟩
    rcases hends.1 hb with ⟨hd, h0⟩ | ⟨hd, h0⟩
    · exact .inr (.inr (.inr ⟨hd, h0, by rw [hd]; rfl, by rw [hpos, hd]; rfl⟩))
    · exact .inr (.inl ⟨hd, h0, by rw [hd]; rfl, by rw [hpos, hd]; rfl⟩)
  | false =>
    have hpos := cylonNext_toNat hlt hb
    rw [hb] at hends
    refine ⟨_, congrArg Prod.fst (cylonStep_of_inside a b r hb), ?_⟩
    cases hd : q.down with
    | true =>
      have h0 : q.pos.toNat ≠ 0 := fun h => by simp [hd, h] at hends
      rw [hd] at hpos
      exact .inr (.inr (.inl ⟨rfl, Nat.pos_of_ne_zero h0, rfl, hpos⟩))
    | false =>
      have h0 : q.pos.toNat + 1 ≠ params.pixels := fun h => by simp [hd, h] at hends
      rw [hd] at hpos
      exact .inl ⟨rfl, by omega, rfl, hpos⟩

theorem cylonStep_at {params : Params} {j : Nat} {q : CylonState} (hP : 2 ≤ params.pixels)
    (h : CylonAt params.pixels j q) (a b : Color) (r : RandomPort) :
    CylonAt params.pixels (j + 1) (cylonStep params.pixels a b q r).1 := by
  obtain ⟨n, hn, hmove⟩ := cylonStep_cases hP (h.1 ▸ eyeAt_lt hP j) a b r
  obtain ⟨hpos, hdown⟩ := h
  have hmod := Nat.mod_lt j (show 0 < 2 * (params.pixels - 1) by omega)
  have hsucc := succ_mod_cases (show 2 ≤ 2 * (params.pixels - 1) by omega) j
  have hx := eyeAt_cases params.pixels j
  have hy := eyeAt_cases params.pixels (j + 1)
  rw [hn]
  unfold CylonAt
  rw [hpos] at hmove
  rcases hmove with ⟨hd, hp, hd', hp'⟩ | ⟨hd, hp, hd', hp'⟩ | ⟨hd, hp, hd', hp'⟩ | ⟨hd, hp, hd', hp'⟩ <;>
    simp only [hd, hd', hp', true_iff, false_iff, Bool.false_eq_true] at hdown ⊢ <;>
    omega

/-- Advance number `j` of an activation, on a strip of P pixels at the speed `v`. -/
def CylonReady (P : Nat) (v : Word) (j : Nat) (s : State) : Prop :=
  s.params.pixels = P ∧ s.actSpeed = v ∧ ∃ q r, cylonEntry s = some (q, r) ∧ CylonAt P j q

theorem execAdvCylon_at {P j : Nat} {v : Word} {s : State} (hP : 2 ≤ P) (h : CylonReady P v j s) :
    ∃ t q, exec .advCylon s = .next t ∧ t.params.pixels = P ∧ t.actSpeed = v ∧ t.ps = .cylon q ∧
      CylonAt P (j + 1) q ∧
      t.advDelay = BitVec.ofNat 32
        (if eyeAt P j = P - 1 ∨ (eyeAt P j = 0 ∧ 0 < j) then 3 * (v.toNat / (2 * P)) else v.toNat / (2 * P)) := by
  obtain ⟨rfl, rfl, q, r, he, hq⟩ := h
  refine ⟨_, _, execAdvCylon_of_entry he, rfl, rfl, rfl, cylonStep_at hP hq _ _ r, ?_⟩
  simp only [← cylonBounces_at hP hq]
  rfl

/-- Settles O32, by induction on the advances, with the strip and the speed unchanged along the run. -/
theorem cylonPositionIsPeriodic : Obligations.CylonPositionIsPeriodic := by
  intro k s hi hP
  have hstep : ∀ j u, CylonReady s.params.pixels s.actSpeed j u →
      ∃ t, exec .advCylon u = .next t ∧
        CylonReady s.params.pixels s.actSpeed (j + 1) { t with advInitial := false } := by
    intro j u hu
    obtain ⟨t, q, ht, hparams, hspeed, hps, hq, -⟩ := execAdvCylon_at hP hu
    exact ⟨t, ht, hparams, hspeed, q, _, cylonEntry_later rfl hps, hq⟩
  have h0 : CylonReady s.params.pixels s.actSpeed 0 s := by
    refine ⟨rfl, rfl, _, _, cylonEntry_initial hi, (eyeAt_zero s.params.pixels_pos).symm, ?_⟩
    exact iff_of_false Bool.false_ne_true (by rw [Nat.zero_mod]; omega)
  obtain ⟨u, hu, hready⟩ := advances_induction hstep h0 k
  obtain ⟨t, q, ht, -, -, hps, hq, hdelay⟩ := execAdvCylon_at hP hready
  exact ⟨_, q, advances_succ_of_next hu ht, hps, hq.1, hdelay⟩

end Sys2Proof.Machine

/-! LAVA's blobs and strip, the covered set of a blob, and one channel between the background and a blob (41_patterns R170
to R175; 00_scope R10; 40_color_math R123). -/

namespace Sys2Proof.Machine

/-! ## The pool -/

theorem spawns_spawn (params : Params) (a : Color) (p : RandomPort) :
    Spawns params a p (spawn params a p).1 (spawn params a p).2 := by
  obtain ⟨pos, rad, dur, hpos, hrad, hlo, hhi, he⟩ := spawn_spec params a p
  have hP := params.pixels_le
  have hmax := params.lavaOnMax_lt
  have hpos' : (BitVec.ofNat 16 pos).toNat = pos := Nat.mod_eq_of_lt (by omega)
  have hrad' : (BitVec.ofNat 16 rad).toNat = rad := Nat.mod_eq_of_lt (by omega)
  have hdur' : (BitVec.ofNat 32 dur).toNat = dur := Nat.mod_eq_of_lt (by omega)
  rw [he]
  refine ⟨_, rfl, ?_⟩
  simp only [hpos', hrad', hdur']
  exact ⟨hpos, hrad, hlo, hhi, expands_expand a _⟩

theorem despawns_despawn (params : Params) (spot : Spot) (p : RandomPort) :
    Despawns params spot p (despawn params spot p).1 (despawn params spot p).2 := by
  obtain ⟨wait, hlo, hhi, he⟩ := despawn_spec params spot p
  have hmax := params.lavaOffMax_lt
  have hwait : (BitVec.ofNat 32 wait).toNat = wait := Nat.mod_eq_of_lt (by omega)
  rw [he]
  refine ⟨rfl, ?_⟩
  simp only [hwait]
  exact ⟨hlo, hhi, trivial⟩

/-- The three cases of R171 exclude each other. -/
theorem blobSteps_blobStep (params : Params) (a : Color) (b : Blob) (p : RandomPort) :
    BlobSteps params a b p (blobStep params a b p).1 (blobStep params a b p).2 := by
  rcases blobStep_cases params a b p with ⟨hcd, he⟩ | ⟨hcd, spot, hl, he⟩ | ⟨hcd, hl, he⟩
  · rw [he]
    exact ⟨fun _ => ⟨rfl, rfl, rfl⟩, fun h => absurd h hcd, fun h => absurd h hcd⟩
  · rw [he]
    refine ⟨fun h => absurd hcd h, fun _ spot' hl' => ?_, fun _ h => absurd hl (h spot)⟩
    obtain rfl : spot = spot' := by simpa using hl.symm.trans hl'
    exact despawns_despawn params spot p
  · rw [he]
    exact ⟨fun h => absurd hcd h, fun _ spot h => absurd h (hl spot), fun _ _ => spawns_spawn params a p⟩

theorem poolSteps_stepBlobs (params : Params) (a : Color) (bs : List Blob) (p : RandomPort) :
    PoolSteps params a bs p (stepBlobs params a bs p).1 (stepBlobs params a bs p).2 := by
  induction bs generalizing p with
  | nil => exact ⟨rfl, rfl⟩
  | cons b bs ih => exact ⟨_, _, _, rfl, blobSteps_blobStep params a b p, ih _⟩

/-! ## The strip -/

theorem paintBlob_getElem? (pixels : Nat) (buf : List Color) (b : Blob) (i : Nat) :
    (paintBlob pixels buf b)[i]? = buf[i]?.map (morphedByBlobs pixels [b] i) := by
  obtain ⟨cd, life⟩ := b
  cases life with
  | active spot => exact List.getElem?_mapIdx
  | inactive spot => exact Option.map_id'.symm
  | unborn => exact Option.map_id'.symm

/-- Each blob of the pool morphs a pixel by itself, after the blobs before it. -/
theorem foldl_paintBlob_getElem? (pixels : Nat) (blobs : List Blob) (buf : List Color) (i : Nat) :
    (blobs.foldl (paintBlob pixels) buf)[i]? = buf[i]?.map (morphedByBlobs pixels blobs i) := by
  induction blobs generalizing buf with
  | nil => exact Option.map_id'.symm
  | cons b bs ih =>
    rw [List.foldl_cons, ih, paintBlob_getElem?, Option.map_map]
    rfl

theorem lavaBuffer_getElem? (pixels : Nat) (g : Color) (blobs : List Blob) (buf : List Color) (i : Nat) :
    (lavaBuffer pixels g blobs buf)[i]? = buf[i]?.map fun c => morphedByBlobs pixels blobs i (morph c g) := by
  rw [lavaBuffer, foldl_paintBlob_getElem?, List.getElem?_map, Option.map_map]
  rfl

/-! ## The advances -/

theorem lavaEntry_initial {s : State} (h : s.advInitial = true) :
    lavaEntry s = some
      ({ background := (expand s.actColorB s.random).1, buf := List.replicate s.params.pixels black,
         blobs := (initialBlobs s.params.lavaOffMax s.params.nblobs (expand s.actColorB s.random).2).1 },
        (initialBlobs s.params.lavaOffMax s.params.nblobs (expand s.actColorB s.random).2).2) :=
  if_pos h

theorem lavaEntry_later {s : State} {q : LavaState} (h : s.advInitial = false) (hps : s.ps = .lava q)
    (hbuf : q.buf.length = s.params.pixels) (hpool : q.blobs.length = s.params.nblobs) :
    lavaEntry s = some (q, s.random) := by
  unfold lavaEntry
  rw [h, hps]
  exact if_pos (And.intro hbuf hpool)

/-- From the state it finds, a LAVA advance steps the pool and then paints each entry of the buffer by itself
(R170, R171). -/
theorem execAdvLava_steps {s : State} {q : LavaState} {r : RandomPort} (he : lavaEntry s = some (q, r)) :
    ∃ (n : LavaState) (r' : RandomPort), n.background = q.background ∧
      PoolSteps s.params s.actColorA q.blobs r n.blobs r' ∧ n.buf.length = s.params.pixels ∧
      (∀ i, n.buf[i]? = q.buf[i]?.map fun c => morphedByBlobs s.params.pixels n.blobs i (morph c q.background)) ∧
      execAdvLava s = .next { s with
        ps := .lava n, random := r', advDelay := 10, out := s.out ++ oneFrame n.buf } := by
  refine ⟨⟨q.background, lavaBuffer s.params.pixels q.background (stepBlobs s.params s.actColorA q.blobs r).1 q.buf,
    (stepBlobs s.params s.actColorA q.blobs r).1⟩, _, rfl, poolSteps_stepBlobs _ _ _ _, ?_,
    lavaBuffer_getElem? _ _ _ _, execAdvLava_of_entry he⟩
  rw [lavaBuffer_length]
  exact (lavaEntry_lengths he).1

/-- Settles O36: the countdowns and the black strip of the reset state, then one step of it. -/
theorem lavaStartsInactive : Obligations.LavaStartsInactive := by
  intro s hi
  have hg := expands_expand s.actColorB s.random
  have he := lavaEntry_initial hi
  generalize expand s.actColorB s.random = g at hg he
  obtain ⟨cds, hlen, hcds, hblobs⟩ := initialBlobs_spec s.params.lavaOffMax_pos s.params.nblobs g.2
  rw [hblobs] at he
  obtain ⟨n, r, hbg, hpool, hbuf, hpixel, hexec⟩ := execAdvLava_steps he
  refine ⟨g.1, g.2, cds, n, r, hg, hlen, hcds, hbg, hpool, hbuf, fun i c hc => ?_, hexec⟩
  obtain ⟨c₀, hc₀, rfl⟩ := Option.map_eq_some_iff.1 ((hpixel i).symm.trans hc)
  rw [List.eq_of_mem_replicate (List.mem_of_getElem? hc₀)]
  rfl

/-- Settles O37: one step of the state found. -/
theorem lavaStepsBlobsThenStrip : Obligations.LavaStepsBlobsThenStrip := by
  intro s q hi hps hbuf hpool
  obtain ⟨n, r, hbg, hsteps, hlen, hpixel, hexec⟩ := execAdvLava_steps (lavaEntry_later hi hps hbuf hpool)
  refine ⟨n, r, hbg, hsteps, hlen, fun i c c' hc hc' => ?_, hexec⟩
  rw [hpixel, hc] at hc'
  exact (Option.some.inj hc').symm

/-! ## The covered set -/

theorem covers_iff (pixels : Nat) (spot : Spot) (i : Nat) :
    covers pixels spot i = true ↔ ∃ k : Int, -(spot.radius.toNat : Int) ≤ k ∧ k ≤ (spot.radius.toNat : Int) ∧
      ((spot.bpos.toNat : Int) + k) % (pixels : Int) = (i : Int) := by
  simp only [covers, List.any_eq_true, List.mem_range, beq_iff_eq]
  constructor
  · rintro ⟨k, hk, h⟩
    exact ⟨(k : Int) - spot.radius.toNat, by omega, by omega, h⟩
  · rintro ⟨k, hlo, hhi, h⟩
    obtain ⟨n, hn⟩ := Int.eq_ofNat_of_zero_le (show 0 ≤ k + spot.radius.toNat by omega)
    refine ⟨n, by omega, ?_⟩
    rwa [← hn, Int.add_sub_cancel]

/-- The way up from `b` to `i` around the strip. -/
theorem wayUp_eq {P b i : Nat} (hi : i < P) (hb : b < P) :
    (i + P - b) % P = if b ≤ i then i - b else i + P - b := by
  split
  · rw [show i + P - b = i - b + P by omega, Nat.add_mod_right, Nat.mod_eq_of_lt (by omega)]
  · rw [Nat.mod_eq_of_lt (by omega)]

/-- `k` pixels up from `b` lies `i` exactly when `k` is, up to whole rounds, the way up from `b` to `i`. -/
theorem add_mod_eq_iff {P b i : Nat} (hi : i < P) (hb : b < P) (k : Nat) :
    (b + k) % P = i ↔ k % P = (i + P - b) % P := by
  have hk := Nat.mod_lt k (show 0 < P by omega)
  rw [Nat.add_mod_eq_ite, Nat.mod_eq_of_lt hb, wayUp_eq hi hb]
  split <;> split <;> omega

/-- The way up is the shortest walk up. -/
theorem exists_add_mod_iff {P b i : Nat} (hi : i < P) (hb : b < P) (r : Nat) :
    (∃ k, k ≤ r ∧ (b + k) % P = i) ↔ (i + P - b) % P ≤ r := by
  constructor
  · rintro ⟨k, hk, h⟩
    calc (i + P - b) % P = k % P := ((add_mod_eq_iff hi hb k).1 h).symm
      _ ≤ k := Nat.mod_le k P
      _ ≤ r := hk
  · exact fun h => ⟨_, h, (add_mod_eq_iff hi hb _).2 (Nat.mod_mod _ P)⟩

/-- A walk of `k` from `x` to `y`, walked back. -/
theorem sub_emod_of_add_emod {P x y k : Int} (h0 : 0 ≤ x) (hx : x < P) (h : (x + k) % P = y) : (y - k) % P = x := by
  rw [← h, Int.emod_sub_emod, Int.add_sub_cancel, Int.emod_eq_of_lt h0 hx]

/-- A covered pixel is reached by a walk up from the blob, or reaches the blob by one (R174). -/
theorem covers_iff_walk {pixels i : Nat} {spot : Spot} (hi : i < pixels) (hb : spot.bpos.toNat < pixels) :
    covers pixels spot i = true ↔ (∃ k, k ≤ spot.radius.toNat ∧ (spot.bpos.toNat + k) % pixels = i) ∨
      (∃ k, k ≤ spot.radius.toNat ∧ (i + k) % pixels = spot.bpos.toNat) := by
  rw [covers_iff]
  constructor
  · rintro ⟨k, hlo, hhi, h⟩
    obtain ⟨n, rfl | rfl⟩ := k.eq_nat_or_neg
    · exact .inl ⟨n, by omega, by exact_mod_cast h⟩
    · have hback := sub_emod_of_add_emod (by omega) (by omega) h
      rw [Int.sub_neg] at hback
      exact .inr ⟨n, by omega, by exact_mod_cast hback⟩
  · rintro (⟨k, hk, h⟩ | ⟨k, hk, h⟩)
    · exact ⟨k, by omega, by omega, by exact_mod_cast h⟩
    · have h' : ((i : Int) + k) % pixels = spot.bpos.toNat := by exact_mod_cast h
      exact ⟨-k, by omega, by omega, sub_emod_of_add_emod (by omega) (by omega) h'⟩

/-- Settles O38: the model's test, and the shortest walks either way. -/
theorem coverIsCircularDistance : Obligations.CoverIsCircularDistance := by
  intro pixels spot i _ hi hb
  refine ⟨covers_iff pixels spot i, ?_⟩
  rw [covers_iff_walk hi hb, exists_add_mod_iff hi hb, exists_add_mod_iff hb hi]

/-! ## One channel -/

theorem morphChannel_cases (x y : Nat) :
    (x < y ∧ morphChannel x y = x + 1) ∨ (y < x ∧ morphChannel x y = x - 1) ∨ (x = y ∧ morphChannel x y = x) := by
  unfold morphChannel
  split
  · omega
  · split <;> omega

theorem channel_le_of_concrete {c : Color} (h : Concrete c) {j x : Nat} (hx : (channelsOf c)[j]? = some x) : x ≤ 127 :=
  h x (List.mem_of_getElem? hx)

/-- On concrete colours a channel of the morph is the step of that channel (R123). -/
theorem morph_channel_eq {a b : Color} (ha : Concrete a) (hb : Concrete b) {j x y z : Nat}
    (hx : (channelsOf a)[j]? = some x) (hy : (channelsOf b)[j]? = some y)
    (hz : (channelsOf (morph a b))[j]? = some z) : z = morphChannel x y := by
  have hx' := channel_le_of_concrete ha hx
  have hy' := channel_le_of_concrete hb hy
  rw [(morph_channelWise a b).channel_eq hx hy hz, Nat.mod_eq_of_lt (by omega), Nat.mod_eq_of_lt (by omega)]

/-- Settles O40: the background step, then the blob step, each in its three cases. -/
theorem lavaPixelStagnates : Obligations.LavaPixelStagnates := by
  intro c bg col hc hbg hcol j x t0 t1 x' hx h0 h1 hx'
  have hj : j < (channelsOf (morph c bg)).length := (List.getElem?_eq_some_iff.1 hx).1
  have hy := List.getElem?_eq_getElem hj
  have hmid : Concrete (morph c bg) := (concrete_iff _).2 (morph_concrete c bg)
  have hfirst := morph_channel_eq hc hbg hx h0 hy
  have hsecond := morph_channel_eq hmid hcol hy h1 hx'
  generalize (channelsOf (morph c bg))[j] = y at hfirst hsecond
  rcases morphChannel_cases x t0 with ⟨hlt, he⟩ | ⟨hlt, he⟩ | ⟨hlt, he⟩ <;>
  · have := morphChannel_cases y t1
    rw [he] at hfirst
    omega

/-! ## What an advance leaves -/

/-- The rows of the advance table are the operations of the six kinds (30_encoding R98). -/
theorem advTable_kind {p : Nat × Instr} (hp : p ∈ advTable) : ∃ k : Kind, p.2 = k.toInstr := by
  simp only [advTable, List.mem_cons, List.not_mem_nil, or_false] at hp
  rcases hp with rfl | rfl | rfl | rfl | rfl | rfl
  · exact ⟨.solid, rfl⟩
  · exact ⟨.pulse, rfl⟩
  · exact ⟨.cylon, rfl⟩
  · exact ⟨.alternate, rfl⟩
  · exact ⟨.flicker, rfl⟩
  · exact ⟨.lava, rfl⟩

theorem exec_kind_effect {k : Kind} {s t : State} (h : exec k.toInstr s = .next t) : AdvEffect s t := by
  cases k with
  | solid => exact execAdvSolid_effect h
  | pulse => exact execAdvPulse_effect h
  | cylon => exact execAdvCylon_effect h
  | alternate => exact execAdvAlternate_effect h
  | flicker => exact execAdvFlicker_effect h
  | lava => exact execAdvLava_effect h

theorem readHostReg_of_advEffect {s t : State} (h : AdvEffect s t) (r : HostReg) : readHostReg r t = readHostReg r s := by
  obtain ⟨p, q, d, es, rfl, -⟩ := h
  cases r <;> rfl

/-- Settles O41: what any advance can do, row by row of the table, and its draws in order. -/
theorem advanceWritesNoHostRegister : Obligations.AdvanceWritesNoHostRegister := by
  intro p hp s t h
  obtain ⟨k, hk⟩ := advTable_kind hp
  rw [hk] at h
  have heff := exec_kind_effect h
  have hdraws := exec_kind_drawsInOrder h
  refine ⟨readHostReg_of_advEffect heff, ?_⟩
  obtain ⟨ps, r, d, es, rfl, hes⟩ := heff
  refine ⟨rfl, rfl, rfl, rfl, rfl, rfl, hdraws, ?_⟩
  rcases hes with rfl | ⟨cs, hl, rfl⟩
  · exact .inl (List.append_nil _)
  · exact .inr ⟨cs, hl, rfl⟩

end Sys2Proof.Machine

/-! The scheduler's commands: how NOP, PARSE and SETPAT end, and what TICK does when it is not due, when it is due, and when
it is initial (42_scheduler R200 to R205). -/

namespace Sys2Proof.Machine

/-! ## NOP and PARSE -/

/-- Settles O15: both commands are `cmdResult` and nothing else. -/
theorem nopAndParseOnlySetErr : Obligations.NopAndParseOnlySetErr := fun s =>
  ⟨⟨_, errStatus_withErr .ok s.status, rfl⟩, ⟨_, errStatus_withErr .unsupported s.status, rfl⟩⟩

/-! ## SETPAT -/

section

variable {s : State}

theorem execSetpat_badKind (hk : s.cfgKind.toNat > 5) : execSetpat s = .next (cmdResult .badKind s) :=
  if_pos hk

theorem execSetpat_badColor (hk : s.cfgKind.toNat ≤ 5)
    (hc : ¬ (isValid s.cfgColorA = true ∧ isValid s.cfgColorB = true)) :
    execSetpat s = .next (cmdResult .badColor s) := by
  have hinvalid : isValid s.cfgColorA = false ∨ isValid s.cfgColorB = false := by
    simpa only [Decidable.not_and_iff_or_not, Bool.not_eq_true] using hc
  unfold execSetpat
  rw [if_neg (Nat.not_lt.2 hk), if_pos hinvalid]

theorem execSetpat_applies (hk : s.cfgKind.toNat ≤ 5) (ha : isValid s.cfgColorA = true)
    (hb : isValid s.cfgColorB = true) : execSetpat s = .next (cmdResult .ok (activate s)) := by
  unfold execSetpat
  rw [if_neg (Nat.not_lt.2 hk), if_neg (by simp [ha, hb])]

end

/-- Settles O20: the three outcomes of SETPAT, its test of a colour being the statement's. -/
theorem setpatAppliesOrRefuses : Obligations.SetpatAppliesOrRefuses := by
  intro s valid
  have hvalid : ∀ c, isValid c = true ↔ valid c := isValid_iff
  refine ⟨fun hk => ?_, fun hk hc => ?_, fun hk ha hb => ?_⟩
  · exact ⟨_, errStatus_withErr .badKind s.status, execSetpat_badKind hk⟩
  · rw [← hvalid, ← hvalid] at hc
    exact ⟨_, errStatus_withErr .badColor s.status, execSetpat_badColor hk hc⟩
  · exact ⟨_, errStatus_withErr .ok s.status, execSetpat_applies hk ((hvalid _).2 ha) ((hvalid _).2 hb)⟩

/-! ## TICK not due -/

/-- TICK writes every field of STATUS, so nothing of the old word is left (R202). -/
theorem withErr_ok_withTickFlags (ran init : Bool) (st : BitVec 6) :
    withErr .ok (withTickFlags ran init st) = statusWord init ran 0 := by
  rw [withErr, initOf_withTickFlags, ranOf_withTickFlags]
  rfl

theorem execTick_early {s : State} (h0 : s.nextDue ≠ 0) (h : s.now.toNat < s.nextDue.toNat) :
    execTick s = .next { s with status := 0 } := by
  have hdue : isDue s = false := by
    rw [← Bool.not_eq_true, isDue_later h0]
    exact Nat.not_le.2 h
  rw [execTick_notDue hdue, cmdResult, setTickFlags, withErr_ok_withTickFlags]
  rfl

/-- Settles O23: STATUS takes no part in the comparison, so the second TICK is early too. -/
theorem tickNotDueChangesOnlyStatus : Obligations.TickNotDueChangesOnlyStatus := fun s h0 h =>
  ⟨execTick_early h0 h, execTick_early (s := { s with status := 0 }) h0 h⟩

/-! ## TICK due -/

theorem decodeKind_code (k : Kind) : decodeKind k.code = some k := by
  cases k <;> rfl

/-- A row of the advance table is the code and the operation of one kind (30_encoding R98). -/
theorem advTable_row {p : Nat × Instr} (hp : p ∈ advTable) : ∃ k : Kind, p = (k.code.toNat, k.toInstr) := by
  have hmap : p ∈ [Kind.solid, .pulse, .cylon, .alternate, .flicker, .lava].map fun k => (k.code.toNat, k.toInstr) := hp
  obtain ⟨k, -, rfl⟩ := List.mem_map.1 hmap
  exact ⟨k, rfl⟩

theorem decodeKind_eq_none {k : BitVec 3} (h : k.toNat > 5) : decodeKind k = none := by
  revert k
  decide

theorem advance_unreachable {s : State} (h : s.actKind.toNat > 5) : advance s = .fault .unreachableKind := by
  unfold advance
  rw [decodeKind_eq_none h]

theorem dueTime_initial {s : State} (h : s.nextDue = 0) : dueTime s = s.now := if_pos h

theorem dueTime_later {s : State} (h : s.nextDue ≠ 0) : dueTime s = s.nextDue := if_neg h

/-- The statement's two ways for a TICK to be due, in the model's words (R202). -/
theorem isDue_and_dueTime_eq {s : State} {due : Word}
    (h : (s.nextDue = 0 ∧ due = s.now) ∨ (s.nextDue ≠ 0 ∧ due = s.nextDue ∧ s.nextDue.toNat ≤ s.now.toNat)) :
    isDue s = true ∧ dueTime s = due := by
  rcases h with ⟨h0, rfl⟩ | ⟨h0, rfl, hle⟩
  · exact ⟨isDue_initial h0, dueTime_initial h0⟩
  · exact ⟨(isDue_later h0).2 hle, dueTime_later h0⟩

section

variable {s : State} {k : Kind}

/-- A due TICK whose advance completes: no advance moves NEXT_DUE (R150), so the delay is added to the due time (R202). -/
theorem execTick_of_exec_next {u : State} (hdue : isDue s = true) (hk : decodeKind s.actKind = some k)
    (hu : exec k.toInstr (beforeAdvance s) = .next u) :
    execTick s = .next { u with
      nextDue := dueTime s + u.advDelay, lastDelay := u.advDelay, status := statusWord (s.nextDue == 0) true 0 } := by
  have hnext : u.nextDue = dueTime s := by
    obtain ⟨p, r, d, es, rfl, -⟩ := exec_kind_effect hu
    rfl
  rw [execTick_due hdue, advance_eq (s := beforeAdvance s) hk, hu, ← hnext, ← withErr_ok_withTickFlags]
  rfl

theorem execTick_of_exec_fault {f : Fault} (hdue : isDue s = true) (hk : decodeKind s.actKind = some k)
    (hf : exec k.toInstr (beforeAdvance s) = .fault f) : execTick s = .fault f := by
  rw [execTick_due hdue, advance_eq (s := beforeAdvance s) hk, hf]
  rfl

end

/-- Settles O24: row by row of the advance table, the dispatch is that row's advance. -/
theorem tickRunsSelectedAdvance : Obligations.TickRunsSelectedAdvance := by
  intro s due h
  obtain ⟨hdue, rfl⟩ := isDue_and_dueTime_eq h
  refine ⟨fun p hp hcode => ?_, fun hk => ?_⟩
  · obtain ⟨k, rfl⟩ := advTable_row hp
    have hk : decodeKind s.actKind = some k := BitVec.eq_of_toNat_eq hcode ▸ decodeKind_code k
    refine ⟨fun t ht => ?_, fun f hf => execTick_of_exec_fault hdue hk hf⟩
    exact ⟨_, congrArg BitVec.toNat (errOf_statusWord _ _ _), ranOf_statusWord _ _ _, initOf_statusWord _ _ _,
      execTick_of_exec_next hdue hk ht⟩
  · calc execTick s
      _ = thenUpdate (.fault .unreachableKind) _ := by
        rw [execTick_due hdue, advance_unreachable (s := beforeAdvance s) hk]
      _ = .fault .unreachableKind := rfl

/-! ## TICK initial -/

section

variable {s : State} (hi : s.advInitial = true)

include hi

theorem execAdvFlicker_initial : execAdvFlicker s = .next (returnDelay 10 (flickerStart s)) := if_pos hi

/-- An initial advance reads nothing of `ps`: its entry state is made anew (10_state R52, 41_patterns R150). -/
theorem exec_kind_initial_setPs (k : Kind) (ps : PatternState) : exec k.toInstr (setPs ps s) = exec k.toInstr s := by
  have hi' : (setPs ps s).advInitial = true := hi
  cases k with
  | solid =>
    change execAdvSolid (setPs ps s) = execAdvSolid s
    unfold execAdvSolid
    rw [hi', hi]
    rfl
  | pulse =>
    exact (execAdvPulse_of_entry (pulseEntry_initial hi')).trans
      (execAdvPulse_of_entry (pulseEntry_initial hi)).symm
  | cylon =>
    exact (execAdvCylon_of_entry (cylonEntry_initial hi')).trans
      (execAdvCylon_of_entry (cylonEntry_initial hi)).symm
  | alternate =>
    exact (execAdvAlternate_of_entry (alternateEntry_initial hi')).trans
      (execAdvAlternate_of_entry (alternateEntry_initial hi)).symm
  | flicker => exact (execAdvFlicker_initial hi').trans (execAdvFlicker_initial hi).symm
  | lava =>
    exact (execAdvLava_of_entry (lavaEntry_initial hi')).trans
      (execAdvLava_of_entry (lavaEntry_initial hi)).symm

/-- An initial advance completes, writes a pattern state of its own kind and emits exactly one frame (R46, R150). -/
theorem exec_kind_initial (k : Kind) : ∃ (p : PatternState) (r : RandomPort) (d : Word) (cs : List Color),
    patternKind p = some k ∧ cs.length = s.params.pixels ∧
      exec k.toInstr s = .next (returnDelay d (drawFrame cs (setPs p (setRandom r s)))) := by
  cases k with
  | solid =>
    refine ⟨_, _, _, _, ?_, List.length_replicate, rfl⟩
    rw [hi]
    rfl
  | pulse =>
    exact ⟨_, _, _, _, rfl, List.length_replicate, execAdvPulse_of_entry (pulseEntry_initial hi)⟩
  | cylon =>
    exact ⟨_, _, _, _, rfl, by simp, execAdvCylon_of_entry (cylonEntry_initial hi)⟩
  | alternate =>
    exact ⟨_, _, _, _, rfl, by simp, execAdvAlternate_of_entry (alternateEntry_initial hi)⟩
  | flicker => exact ⟨_, _, _, _, rfl, List.length_replicate, execAdvFlicker_initial hi⟩
  | lava => exact ⟨_, _, _, _, rfl, by simp, execAdvLava_of_entry (lavaEntry_initial hi)⟩

end

/-- Settles O25: the TICK is due and its advance initial, so the advance completes and what `ps` held is not read. -/
theorem initialTickAlwaysDispatches : Obligations.InitialTickAlwaysDispatches := by
  intro s h0 hle
  obtain ⟨k, hk⟩ := decodeKind_of_le hle
  have hinit : (s.nextDue == 0) = true := beq_iff_eq.2 h0
  have hi : (beforeAdvance s).advInitial = true := hinit
  obtain ⟨p, r, d, cs, hp, hlen, hexec⟩ := exec_kind_initial hi k
  have htick := execTick_of_exec_next (isDue_initial h0) hk hexec
  rw [hinit, dueTime_initial h0] at htick
  refine ⟨_, cs, htick, congrArg BitVec.toNat (errOf_statusWord _ _ _), ranOf_statusWord _ _ _,
    initOf_statusWord _ _ _, rfl, hp.trans hk.symm, hlen, rfl, fun ps' => ?_⟩
  have hexec' := (exec_kind_initial_setPs hi k ps').trans hexec
  have htick' := execTick_of_exec_next (s := setPs ps' s) (isDue_initial h0) hk hexec'
  rwa [show ((setPs ps' s).nextDue == 0) = true from hinit, dueTime_initial (s := setPs ps' s) h0] at htick'

end Sys2Proof.Machine

/-! The Block's ports to the sink and to the surfaces outside: whole frames only, the sink's bytes, and the status text
(43_interfaces R230 to R238). -/

namespace Sys2Proof.Machine

/-! ## Whole frames -/

/-- Between `s` and `t` nothing was emitted, or exactly one complete frame (43_interfaces R231). -/
def EmitsAtMostOneFrame (s t : State) : Prop :=
  t.out = s.out ∨ ∃ cs : List Color, cs.length = s.params.pixels ∧ t.out = s.out ++ oneFrame cs

/-- Only `out` and PIXELS take part: they may be read in the states before and after other updates. -/
theorem EmitsAtMostOneFrame.congr {s t s' t' : State} (h : EmitsAtMostOneFrame s t)
    (hs : s'.out = s.out := by rfl) (hp : s'.params = s.params := by rfl) (ht : t'.out = t.out := by rfl) :
    EmitsAtMostOneFrame s' t' := by
  rwa [EmitsAtMostOneFrame, hs, hp, ht]

theorem AdvEffect.emitsAtMostOneFrame {s t : State} (h : AdvEffect s t) : EmitsAtMostOneFrame s t := by
  obtain ⟨p, r, d, es, rfl, rfl | ⟨cs, hlen, rfl⟩⟩ := h
  · exact .inl (List.append_nil _)
  · exact .inr ⟨cs, hlen, rfl⟩

theorem execTick_emitsAtMostOneFrame {s t : State} (h : execTick s = .next t) : EmitsAtMostOneFrame s t := by
  rcases execTick_cases h with ⟨-, rfl⟩ | ⟨-, u, hu, rfl⟩
  · exact .inl rfl
  · exact (advance_effect hu).emitsAtMostOneFrame.congr

/-- Only TICK emits. -/
theorem runCommand_emitsAtMostOneFrame {c : Command} {s t : State} (h : runCommand c s = .next t) :
    EmitsAtMostOneFrame s t := by
  cases c with
  | tick => exact execTick_emitsAtMostOneFrame h
  | setpat =>
    rcases execSetpat_cases s with ⟨-, he⟩ | ⟨-, -, he⟩ | ⟨-, -, -, he⟩ <;>
    · cases he.symm.trans h
      exact .inl rfl
  | nop | mix | dim | morph | expand | parse =>
    cases h
    exact .inl rfl

theorem storeHostReg_out (r : HostReg) (v : Word) (s : State) : (storeHostReg r v s).out = s.out := by
  cases r <;> rfl

theorem busError_out (op : BusOp) (s : State) : (busError op s).out = s.out := by
  cases op <;> rfl

theorem execWr_emitsAtMostOneFrame {off : Offset} {v : Word} {s t : State} (h : execWr off v s = .next t) :
    EmitsAtMostOneFrame s t := by
  rcases execWr_cases h with ⟨r, -, -, rfl⟩ | rfl | ⟨-, ⟨c, u, -, hu, rfl⟩ | ⟨-, rfl⟩⟩
  · exact .inl (storeHostReg_out r v s)
  · exact .inl (busError_out _ s)
  · exact (runCommand_emitsAtMostOneFrame hu).congr
  · exact .inl rfl

theorem step_emitsAtMostOneFrame {s t : State} (h : step s = .next t) : EmitsAtMostOneFrame s t := by
  rcases step_cases h with rfl | ⟨rest, -, rfl⟩ | ⟨x, rest, -, ⟨op, rfl⟩ | ⟨-, -, hr⟩ | ⟨v, -, -, hw⟩⟩
  · exact .inl rfl
  · exact .inl rfl
  · exact .inl (busError_out op _)
  · obtain ⟨r, n, rfl⟩ := execRd_effect hr
    exact .inl rfl
  · exact (execWr_emitsAtMostOneFrame hw).congr

/-- Settles O42: among the inputs only a write of TICK's word emits, and what it emits is its advance's. -/
theorem stepEmitsAtMostOneFrame : Obligations.StepEmitsAtMostOneFrame := by
  rintro s t (h | ⟨p, hp, h⟩)
  · exact step_emitsAtMostOneFrame h
  · obtain ⟨k, hk⟩ := advTable_kind hp
    rw [hk] at h
    exact (exec_kind_effect h).emitsAtMostOneFrame

/-! ## The sink's bytes -/

/-- The framing bit lies above the seven bits of a concrete channel, so it adds 128 (R234). -/
theorem framed_toNat {ch : Channel} (h : ch.toNat ≤ 127) : (framed ch).toNat = ch.toNat + 128 := by
  have hor : 128 + ch.toNat = 128 ||| ch.toNat := Nat.two_pow_add_eq_or_of_lt (i := 7) (by omega) 1
  calc (framed ch).toNat
    _ = ch.toNat ||| 128 := BitVec.toNat_or ..
    _ = 128 ||| ch.toNat := Nat.or_comm ..
    _ = ch.toNat + 128 := by rw [← hor, Nat.add_comm]

theorem eventBytes_pixel_toNat {c : Color} (h : Concrete c) (pixels : Nat) :
    (eventBytes pixels (.pixel c)).map BitVec.toNat =
      [(green c).toNat + 128, (red c).toNat + 128, (blue c).toNat + 128] := by
  obtain ⟨hr, hg, hb⟩ := (isConcrete_iff c).1 ((concrete_iff c).1 h)
  simp [eventBytes, framed_toNat hr, framed_toNat hg, framed_toNat hb]

/-- Settles O56: the three channels in numbers, and `(P + 31) / 32` as the least `n` with `32n` at least P. -/
theorem sinkBytesAreFramedGrb : Obligations.SinkBytesAreFramedGrb := by
  refine ⟨fun pixels c h => ?_, fun pixels => ⟨(pixels + 31) / 32, rfl, by omega, by omega⟩⟩
  rw [eventBytes_pixel_toNat h, green_toNat, red_toNat, blue_toNat]

/-! ## Reading digits -/

theorem digitsValue_append (base : Nat) (xs ys : List Char) (acc : Nat) :
    digitsValue base (xs ++ ys) acc = (digitsValue base xs acc).bind (digitsValue base ys) := by
  induction xs generalizing acc with
  | nil => rfl
  | cons x xs ih =>
    simp only [List.cons_append, digitsValue]
    cases digitValue base x with
    | none => rfl
    | some d => exact ih _

/-- The last digit of a digit string is its units. -/
theorem digitsValue_concat {base d v acc : Nat} {xs : List Char} {c : Char} (hxs : digitsValue base xs acc = some v)
    (hc : digitValue base c = some d) : digitsValue base (xs ++ [c]) acc = some (v * base + d) := by
  simp [digitsValue_append, hxs, digitsValue, hc]

/-- What is left of a number of `k + 1` digits without its last one has `k` digits. -/
theorem div_lt_pow {base k n : Nat} (h : n < base ^ (k + 1)) : n / base < base ^ k :=
  Nat.div_lt_of_lt_mul (by rwa [← Nat.pow_succ'])

/-! ## Hexadecimal digits -/

theorem hexDigit_mem {n : Nat} (h : n < 16) : hexDigit n ∈ "0123456789ABCDEF".toList := by
  revert n
  decide

theorem digitValue_hexDigit {n : Nat} (h : n < 16) : digitValue 16 (hexDigit n) = some n := by
  revert n
  decide

theorem hexDigits_length (k n : Nat) : (hexDigits k n).length = k := by
  induction k generalizing n with
  | zero => rfl
  | succ k ih => simp [hexDigits, ih]

theorem hexDigits_mem (k n : Nat) : ∀ ch ∈ hexDigits k n, ch ∈ "0123456789ABCDEF".toList := by
  induction k generalizing n with
  | zero => exact fun ch h => nomatch h
  | succ k ih =>
    intro ch h
    rcases List.mem_append.1 h with h | h
    · exact ih (n / 16) ch h
    · cases List.mem_singleton.1 h
      exact hexDigit_mem (Nat.mod_lt n (by decide))

/-- `k` hexadecimal digits read back as the number, if it has no more digits than that (R238). -/
theorem digitsValue_hexDigits {k n : Nat} (h : n < 16 ^ k) : digitsValue 16 (hexDigits k n) 0 = some n := by
  induction k generalizing n with
  | zero =>
    obtain rfl : n = 0 := Nat.lt_one_iff.1 h
    rfl
  | succ k ih =>
    have hhigh : n / 16 < 16 ^ k := div_lt_pow h
    rw [hexDigits, digitsValue_concat (ih hhigh) (digitValue_hexDigit (Nat.mod_lt n (by decide))), Nat.div_add_mod']

/-! ## Decimal digits -/

theorem decimalDigit_mem {n : Nat} (h : n < 10) : Char.ofNat (48 + n) ∈ "0123456789".toList := by
  revert n
  decide

theorem digitValue_decimalDigit {n : Nat} (h : n < 10) : digitValue 10 (Char.ofNat (48 + n)) = some n := by
  revert n
  decide

theorem decimalDigit_ne_zero {n : Nat} (h : n < 10) (h0 : 0 < n) : Char.ofNat (48 + n) ≠ '0' := by
  revert n
  decide

theorem decDigits_small {n : Nat} (h : n < 10) (fuel : Nat) : decDigits (fuel + 1) n = [Char.ofNat (48 + n)] :=
  if_pos h

theorem decDigits_large {n : Nat} (h : 10 ≤ n) (fuel : Nat) :
    decDigits (fuel + 1) n = decDigits fuel (n / 10) ++ [Char.ofNat (48 + n % 10)] :=
  if_neg (Nat.not_lt.2 h)

theorem decDigits_mem (fuel n : Nat) : ∀ ch ∈ decDigits fuel n, ch ∈ "0123456789".toList := by
  induction fuel generalizing n with
  | zero => exact fun ch h => nomatch h
  | succ fuel ih =>
    intro ch h
    rcases Nat.lt_or_ge n 10 with hn | hn
    · rw [decDigits_small hn] at h
      cases List.mem_singleton.1 h
      exact decimalDigit_mem hn
    · rw [decDigits_large hn] at h
      rcases List.mem_append.1 h with h | h
      · exact ih (n / 10) ch h
      · cases List.mem_singleton.1 h
        exact decimalDigit_mem (Nat.mod_lt n (by decide))

/-- The decimal digits read back as the number, if the fuel suffices for them (R238). -/
theorem digitsValue_decDigits {fuel n : Nat} (h : n < 10 ^ fuel) : digitsValue 10 (decDigits fuel n) 0 = some n := by
  induction fuel generalizing n with
  | zero =>
    obtain rfl : n = 0 := Nat.lt_one_iff.1 h
    rfl
  | succ fuel ih =>
    rcases Nat.lt_or_ge n 10 with hn | hn
    · have hvalue := digitsValue_concat (xs := []) (acc := 0) rfl (digitValue_decimalDigit hn)
      rw [decDigits_small hn]
      simpa using hvalue
    · rw [decDigits_large hn, digitsValue_concat (ih (div_lt_pow h))
        (digitValue_decimalDigit (Nat.mod_lt n (by decide))), Nat.div_add_mod']

/-- The first digit of a positive number is not 0: the digits before the last one are those of `n / 10`, until one digit is
left (R238). -/
theorem decDigits_pos {fuel n : Nat} (h : n < 10 ^ fuel) (h0 : 0 < n) :
    ∃ c cs, decDigits fuel n = c :: cs ∧ c ≠ '0' := by
  induction fuel generalizing n with
  | zero => exact absurd (Nat.lt_one_iff.1 h) (Nat.ne_of_gt h0)
  | succ fuel ih =>
    rcases Nat.lt_or_ge n 10 with hn | hn
    · exact ⟨_, [], decDigits_small hn fuel, decimalDigit_ne_zero hn h0⟩
    · obtain ⟨c, cs, hcs, hc⟩ := ih (div_lt_pow h) (Nat.div_pos hn (by decide))
      exact ⟨c, _, by rw [decDigits_large hn, hcs, List.cons_append], hc⟩

/-! ## The status text -/

theorem digitsValue_hexDigits_color (c : Color) : digitsValue 16 (hexDigits 6 c.toNat) 0 = some c.toNat :=
  digitsValue_hexDigits c.isLt

theorem speed_lt_pow (v : Word) : v.toNat < 10 ^ 10 := Nat.lt_trans v.isLt (by decide)

/-- A 32-bit number has at least one decimal digit, and a leading 0 only if it is 0 itself (R238). -/
theorem decText_head (v : Word) : decText v ≠ [] ∧ ((decText v).head? = some '0' → decText v = ['0']) := by
  rcases Nat.eq_zero_or_pos v.toNat with h0 | h0
  · have htext : decText v = ['0'] := by rw [decText, h0, decDigits_small (by decide)]
    rw [htext]
    exact ⟨List.cons_ne_nil _ _, fun _ => rfl⟩
  · obtain ⟨c, cs, htext, hc⟩ := decDigits_pos (speed_lt_pow v) h0
    rw [decText, htext]
    exact ⟨List.cons_ne_nil _ _, fun h => absurd (Option.some.inj h) hc⟩

/-- The names of the kinds with their codes (R237). -/
theorem kindName_row {p : Nat × List Char} (hp : p ∈ [ (0, "SOLID".toList), (1, "PULSE".toList), (2, "CYLON".toList),
    (3, "ALTERNATE".toList), (4, "FLICKER".toList), (5, "LAVA".toList) ]) :
    ∃ k : Kind, p = (k.code.toNat, kindName k) := by
  have hmap : p ∈ [Kind.solid, .pulse, .cylon, .alternate, .flicker, .lava].map fun k => (k.code.toNat, kindName k) := hp
  obtain ⟨k, -, rfl⟩ := List.mem_map.1 hmap
  exact ⟨k, rfl⟩

theorem statusText_eq {s : State} {k : Kind} (h : s.actKind = k.code) :
    statusText s = some (kindName k ++ [',', '0', 'x'] ++ hexDigits 6 s.actColorA.toNat ++ [',', '0', 'x'] ++
      hexDigits 6 s.actColorB.toNat ++ [','] ++ decText s.actSpeed) := by
  rw [statusText, h, decodeKind_code]
  simp [hexText]

/-- Settles O57: the digits of the text are `hexDigits` of the two colours and `decText` of the speed. -/
theorem statusTextReadsBack : Obligations.StatusTextReadsBack := by
  intro s name hmem
  obtain ⟨k, hk⟩ := kindName_row hmem
  obtain ⟨hcode, rfl⟩ := Prod.mk.inj hk
  obtain ⟨hne, hzero⟩ := decText_head s.actSpeed
  refine ⟨hexDigits 6 s.actColorA.toNat, hexDigits 6 s.actColorB.toNat, decText s.actSpeed, hexDigits_length _ _,
    hexDigits_length _ _, fun ch h => ?_, decDigits_mem _ _, digitsValue_hexDigits_color _, digitsValue_hexDigits_color _,
    digitsValue_decDigits (speed_lt_pow _), hne, hzero, statusText_eq (BitVec.eq_of_toNat_eq hcode)⟩
  exact (List.mem_append.1 h).elim (hexDigits_mem 6 _ ch) (hexDigits_mem 6 _ ch)

end Sys2Proof.Machine

/-! Which transactions raise BusError, and that such a transaction performs nothing (20_memory R73 to R76;
60_exceptions R254, R255). -/

namespace Sys2Proof.Machine

/-! ## The offsets of the map -/

theorem map_offsetOf_hostRegs : hostRegs.map offsetOf = (List.range 18).map fun i => BitVec.ofNat 8 (4 * i) := by decide

theorem mem_hostRegs (r : HostReg) : r ∈ hostRegs := by cases r <;> decide

/-- The registers fill the map without a hole: they are the 18 words below 0x48 (10_state R30). -/
theorem exists_offsetOf_iff (off : Offset) : (∃ r, offsetOf r = off) ↔ off.toNat % 4 = 0 ∧ off.toNat < 0x48 := by
  have hmap : (∃ r, offsetOf r = off) ↔ off ∈ hostRegs.map offsetOf := by simp [mem_hostRegs]
  rw [hmap, map_offsetOf_hostRegs, List.mem_map]
  constructor
  · rintro ⟨i, hi, rfl⟩
    have hi : i < 18 := List.mem_range.1 hi
    rw [BitVec.toNat_ofNat]
    omega
  · rintro ⟨h4, hlt⟩
    refine ⟨off.toNat / 4, List.mem_range.2 (by omega), ?_⟩
    rw [Nat.mul_div_cancel' (Nat.dvd_of_mod_eq_zero h4), BitVec.ofNat_toNat, BitVec.setWidth_eq]

theorem regAt_eq_none {off : Offset} (h : off.toNat % 4 ≠ 0 ∨ 0x48 ≤ off.toNat) : regAt off = none := by
  cases hr : regAt off with
  | none => rfl
  | some r =>
    have := (exists_offsetOf_iff off).1 ⟨r, (regAt_some hr).symm⟩
    omega

/-- The offsets that R255 (d) lists are those of the read-only registers (10_state R30). -/
theorem mem_readOnlyOffsets_iff (r : HostReg) : (offsetOf r).toNat ∈ readOnlyOffsets ↔ accessOf r = .readOnly := by
  cases r <;> decide

/-! ## The instruction of a word transaction -/

/-- The read or the write that an aligned transaction of size 4 is (30_encoding R90). -/
def Transaction.instr (x : Transaction) : Instr :=
  match x.op with
  | .read => .rd x.off
  | .write v => .wr x.off v

theorem Transaction.instr_read {x : Transaction} (h : x.op = .read) : x.instr = .rd x.off := by
  unfold Transaction.instr
  rw [h]

theorem Transaction.instr_write {x : Transaction} {v : Word} (h : x.op = .write v) : x.instr = .wr x.off v := by
  unfold Transaction.instr
  rw [h]

theorem fetch_eq_instr {x : Transaction} (h4 : x.size = 4) (ha : Offset.aligned x.off = true) : fetch x = some x.instr :=
  fetch_aligned x h4 ha

/-! ## Where a transaction raises BusError -/

theorem execRd_unmapped {off : Offset} (h : regAt off = none) (s : State) : execRd off s = .next (busError .read s) := by
  unfold execRd
  rw [h]

theorem execWr_unmapped {off : Offset} (h : regAt off = none) (v : Word) (s : State) :
    execWr off v s = .next (busError (.write v) s) := by
  unfold execWr
  rw [h]

theorem execWr_readOnly {r : HostReg} (h : accessOf r = .readOnly) (v : Word) (s : State) :
    execWr (offsetOf r) v s = .next (busError (.write v) s) := by
  unfold execWr
  rw [regAt_offsetOf]
  simp only [h]

/-- A write to any other register is accepted, if it completes (20_memory R76). -/
theorem execWr_reply {r : HostReg} (h : accessOf r ≠ .readOnly) {v : Word} {s t : State}
    (ht : execWr (offsetOf r) v s = .next t) : t.reply = .written := by
  cases ha : accessOf r with
  | readOnly => exact absurd ha h
  | readWrite =>
    rw [execWr_readWrite ha] at ht
    cases ht
    rfl
  | writeOnly =>
    obtain rfl : r = .cmd := by cases r <;> first | rfl | cases ha
    rw [execWr_cmd, thenUpdate_next] at ht
    obtain ⟨u, -, rfl⟩ := ht
    rfl

theorem busClean_busError (op : BusOp) (s : State) : busClean (busError op s) = false := by cases op <;> rfl

theorem busClean_of_written {s : State} (h : s.reply = .written) : busClean s = true := by
  unfold busClean
  rw [h]

/-- What is left beside R255's four cases: an aligned word of the map, not a read-only one under a write. -/
theorem not_raisesBusError_iff {x : Transaction} :
    ¬ RaisesBusError x ↔ x.size = 4 ∧ x.off.toNat % 4 = 0 ∧ x.off.toNat < 0x48 ∧
      (x.op ≠ .read → x.off.toNat ∉ readOnlyOffsets) := by
  simp only [RaisesBusError, not_or, not_not, not_le, not_and]

/-- An aligned transaction that R255 (c) or (d) names finds no register, or a read-only one under a write. -/
theorem exec_of_raisesBusError {x : Transaction} (h4 : x.size = 4) (ha : x.off.toNat % 4 = 0) (h : RaisesBusError x)
    (s : State) : exec x.instr s = .next (busError x.op s) := by
  by_cases hlt : x.off.toNat < 0x48
  · have hro : x.op ≠ .read ∧ x.off.toNat ∈ readOnlyOffsets := by
      rcases h with h | h | h | h
      · exact absurd h4 h
      · exact absurd ha h
      · omega
      · exact h
    obtain ⟨r, hr⟩ := (exists_offsetOf_iff x.off).2 ⟨ha, hlt⟩
    cases hop : x.op with
    | read => exact absurd hop hro.1
    | write v =>
      rw [Transaction.instr_write hop, ← hr]
      exact execWr_readOnly ((mem_readOnlyOffsets_iff r).1 (hr ▸ hro.2)) v s
  · have hnone : regAt x.off = none := regAt_eq_none (.inr (Nat.le_of_not_lt hlt))
    cases hop : x.op with
    | read =>
      rw [Transaction.instr_read hop]
      exact execRd_unmapped hnone s
    | write v =>
      rw [Transaction.instr_write hop]
      exact execWr_unmapped hnone v s

/-- Every other transaction is answered without an error, if it completes (20_memory R75, R76). -/
theorem busClean_of_not_raisesBusError {x : Transaction} (h : ¬ RaisesBusError x) {s t : State}
    (ht : exec x.instr s = .next t) : busClean t = true := by
  obtain ⟨-, ha, hlt, hro⟩ := not_raisesBusError_iff.1 h
  obtain ⟨r, hr⟩ := (exists_offsetOf_iff x.off).2 ⟨ha, hlt⟩
  cases hop : x.op with
  | read =>
    rw [Transaction.instr_read hop, ← hr] at ht
    cases (execRd_offsetOf r s).symm.trans ht
    rfl
  | write v =>
    have hacc : accessOf r ≠ .readOnly := fun hacc =>
      hro (by simp [hop]) (hr ▸ (mem_readOnlyOffsets_iff r).2 hacc)
    rw [Transaction.instr_write hop, ← hr] at ht
    exact busClean_of_written (execWr_reply hacc ht)

/-! ## The step that serves it -/

section

variable {s : State} {x : Transaction} {rest : List Input}

theorem step_of_fetch_none (hp : s.pending = .bus x :: rest) (hf : fetch x = none) :
    step s = .next (busError x.op { s with pending := rest }) := by
  simp [step, hp, hf]

theorem step_of_raisesBusError (hp : s.pending = .bus x :: rest) (h : RaisesBusError x) :
    step s = .next (busError x.op { s with pending := rest }) := by
  by_cases hf : x.size ≠ 4 ∨ Offset.aligned x.off = false
  · exact step_of_fetch_none hp (fetch_none x hf)
  · obtain ⟨h4, ha⟩ := not_or.1 hf
    have h4 : x.size = 4 := not_not.1 h4
    have ha : Offset.aligned x.off = true := by simpa using ha
    rw [step_of_fetch hp (fetch_eq_instr h4 ha), exec_of_raisesBusError h4 (beq_iff_eq.1 ha) h]
    exact holdForSink_of_length_eq (congrArg List.length (busError_out x.op { s with pending := rest }))

theorem busClean_step_of_not_raisesBusError {t : State} (hp : s.pending = .bus x :: rest) (hr : s.sinkReady = true)
    (h : ¬ RaisesBusError x) (ht : step s = .next t) : busClean t = true := by
  obtain ⟨h4, ha, -, -⟩ := not_raisesBusError_iff.1 h
  rw [step_of_fetch hp (fetch_eq_instr h4 (beq_iff_eq.2 ha)), holdForSink_ready _ hr] at ht
  exact busClean_of_not_raisesBusError h ht

end

/-- Settles O10: the step is the bus error of the transaction's operation. -/
theorem busErrorPerformsNothing : Obligations.BusErrorPerformsNothing := by
  intro s x rest hp h
  have hstep := step_of_raisesBusError hp h
  cases hop : x.op with
  | read =>
    rw [hop] at hstep
    exact ⟨fun _ => ⟨_, hstep⟩, fun hne => absurd rfl hne⟩
  | write v =>
    rw [hop] at hstep
    exact ⟨nofun, fun _ => hstep⟩

/-- Settles O9: the transactions of R255 end in a bus error, every other one in an answer without one; the rest is what a
read of CMD and a store do. -/
theorem busErrorRaisedExactly : Obligations.BusErrorRaisedExactly := by
  refine ⟨fun s t x rest hp hr ht => ⟨fun hdirty => ?_, fun h => ?_⟩, execRd_offsetOf .cmd, fun r v s h => ?_⟩
  · by_contra h
    rw [busClean_step_of_not_raisesBusError hp hr h ht] at hdirty
    cases hdirty
  · rw [step_of_raisesBusError hp h] at ht
    cases ht
    exact busClean_busError x.op _
  · obtain ⟨t, ht, hread, -, -, -, -, -, -, hreply, -⟩ := writesStoreUsedBits r v s h
    exact ⟨t, ht, busClean_of_written hreply, (hread r).trans (if_pos rfl)⟩

end Sys2Proof.Machine

/-! How a command fails, and in which order (60_exceptions R252, R253). -/

namespace Sys2Proof.Machine

/-! ## How a CMD write ends -/

theorem execTick_errOf {s t : State} (h : execTick s = .next t) : errOf t.status = 0 := by
  rcases execTick_cases h with ⟨-, rfl⟩ | ⟨-, u, -, rfl⟩ <;> exact errOf_withErr .ok _

/-- A command that completes ends with ERR = 0, or has written a result code and nothing else (R252). -/
theorem runCommand_ends {c : Command} {s t : State} (h : runCommand c s = .next t) :
    errOf t.status = 0 ∨ ∃ code, t = cmdResult code s := by
  cases c with
  | nop => cases h; exact .inr ⟨.ok, rfl⟩
  | setpat =>
    have h : execSetpat s = .next t := h
    rcases execSetpat_cases s with ⟨-, he⟩ | ⟨-, -, he⟩ | ⟨-, -, -, he⟩ <;> rw [he] at h <;> cases h
    · exact .inr ⟨.badKind, rfl⟩
    · exact .inr ⟨.badColor, rfl⟩
    · exact .inl (errOf_withErr .ok _)
  | tick => exact .inl (execTick_errOf h)
  | mix | dim | morph | expand => cases h; exact .inl (errOf_withErr .ok _)
  | parse => cases h; exact .inr ⟨.unsupported, rfl⟩

theorem runCmdWord_ends {w : Word} {s t : State} (h : runCmdWord w s = .next t) :
    errOf t.status = 0 ∨ ∃ code, t = cmdResult code s := by
  unfold runCmdWord at h
  split at h
  · exact runCommand_ends h
  · cases h
    exact .inr ⟨.illegalCmd, rfl⟩

/-- A colour command writes RES, and EXPAND draws, before it ends with ERR = 0 (40_color_math R127 to R130). -/
theorem exec_colorMath_errOf {i : Instr} (h : (∃ n, i = .mix n ∨ i = .dim n) ∨ i = .morph ∨ i = .expand) (s : State) :
    ∃ t, exec i s = .next t ∧ errOf t.status = 0 := by
  rcases h with ⟨n, rfl | rfl⟩ | rfl | rfl <;> exact ⟨_, rfl, errOf_withErr .ok s.status⟩

/-- Settles O21: a CMD write that ends with ERR ≠ 0 has only written its result code, and an advance has no write of STATUS
among its effects. -/
theorem failuresArePrecise : Obligations.FailuresArePrecise := by
  refine ⟨fun w s t h herr => ?_, fun i s h => exec_colorMath_errOf h s, fun p hp s t h => ?_⟩
  · have hw : thenUpdate (runCmdWord w s) (answer .written) = .next t := (execWr_cmd w s).symm.trans h
    obtain ⟨u, hu, rfl⟩ := thenUpdate_next.1 hw
    rcases runCmdWord_ends hu with hok | ⟨code, rfl⟩
    · exact absurd hok herr
    · exact ⟨rfl, ranOf_withErr code s.status, initOf_withErr code s.status⟩
  · obtain ⟨k, hk⟩ := advTable_kind hp
    rw [hk] at h
    obtain ⟨ps, r, d, es, rfl, -⟩ := exec_kind_effect h
    rfl

/-! ## The order of the failures -/

/-- The word 1 is SETPAT's, so its write to CMD ends in the status SETPAT ends in (30_encoding R92). -/
theorem execWr_setpat_errOf {s : State} {st : BitVec 6} {err : Nat} (hst : ErrStatus err s.status st)
    (h : exec .setpat s = .next { s with status := st }) :
    ∃ t, exec (.wr 0x00 1) s = .next t ∧ (errOf t.status).toNat = err :=
  ⟨_, (cmdWriteRunsCommand .setpat s).1 _ h, hst.1⟩

/-- Settles O22: the illegal words are refused by their decode alone, and SETPAT tests the kind before the colours. -/
theorem errorsHavePriority : Obligations.ErrorsHavePriority := by
  intro w s
  obtain ⟨hkind, hcolor, -⟩ := setpatAppliesOrRefuses s
  refine ⟨fun h => ?_, fun hk => ?_, fun hk hc => ?_, by unfold IllegalWord; decide⟩
  · obtain ⟨st, r, hst, he⟩ := (illegalWordsOnlySetErr w s).1 h
    exact ⟨_, he, hst.1⟩
  · obtain ⟨st, hst, he⟩ := hkind hk
    exact execWr_setpat_errOf hst he
  · obtain ⟨c, hmem, hconcrete, hrandom, hprimary⟩ := hc
    have hinvalid : ¬ (Concrete c ∨ c = 0x808080 ∨ c = 0x818181) := by
      rintro (h | h | h)
      · exact hconcrete h
      · exact hrandom h
      · exact hprimary h
    obtain ⟨st, hst, he⟩ := hcolor hk fun ⟨ha, hb⟩ => by
      rcases List.mem_pair.1 hmem with rfl | rfl
      · exact hinvalid ha
      · exact hinvalid hb
    exact execWr_setpat_errOf hst he

end Sys2Proof.Machine

/-! The step with nothing pending, and the step after a table word is placed (60_exceptions R264; 30_encoding R90, R91, R98;
log 12). -/

namespace Sys2Proof.Machine

theorem step_of_pending_nil {s : State} (h : s.pending = []) : step s = .next s := by
  simp [step, h]

/-! ## The word of a table row -/

theorem decodeTableWord_some {nbits w : Nat} {i : Instr} (h : decodeTableWord nbits w = some i) :
    ∃ e, encodedOfBits nbits w = some e ∧ decode e = .ok i := by
  unfold decodeTableWord at h
  split at h
  · next e he =>
    split at h
    · next j hj =>
      cases h
      exact ⟨e, he, hj⟩
    · cases h
  · cases h

theorem withFetchWord_of_encoded {nbits w : Nat} {e : Encoded} (h : encodedOfBits nbits w = some e) (s : State) :
    s.withFetchWord nbits w = placeWord e s := by
  unfold State.withFetchWord
  rw [h]

theorem encodedOfBits_bus {w : Nat} {e : Encoded} (h : encodedOfBits 48 w = some e) : e = .bus (BitVec.ofNat 41 w) := by
  simpa [encodedOfBits, eq_comm] using (Option.ite_none_right_eq_some.1 h).2

theorem encodedOfBits_cmd {w : Nat} {e : Encoded} (h : encodedOfBits 32 w = some e) : e = .cmd (BitVec.ofNat 32 w) := by
  simpa [encodedOfBits, eq_comm] using (Option.ite_none_right_eq_some.1 h).2

theorem encodedOfBits_kind {w : Nat} {e : Encoded} (h : encodedOfBits 8 w = some e) : e = .kind (BitVec.ofNat 3 w) := by
  simpa [encodedOfBits, eq_comm] using (Option.ite_none_right_eq_some.1 h).2

/-! ## The step that runs it -/

/-- A transaction word's own transaction is fetched as the instruction the word decodes to (30_encoding R90). -/
theorem fetch_transactionOf {w : BitVec 41} {i : Instr} (h : decodeBus w = .ok i) : fetch (transactionOf w) = some i := by
  unfold decodeBus at h
  split at h
  · cases h
  · next ha =>
    have ha : Offset.aligned (transactionOf w).off = true := Bool.of_not_eq_false ha
    rw [fetch_eq_instr rfl ha]
    split at h
    · next hw =>
      cases h
      exact congrArg some (Transaction.instr_write (if_pos hw))
    · next hw =>
      split at h
      · cases h
      · cases h
        exact congrArg some (Transaction.instr_read (if_neg hw))

theorem step_ready_of_fetch {s : State} {x : Transaction} {rest : List Input} {i : Instr}
    (hp : s.pending = .bus x :: rest) (hr : s.sinkReady = true) (hf : fetch x = some i) :
    step s = exec i { s with pending := rest } := by
  rw [step_of_fetch hp hf, holdForSink_ready _ hr]

theorem step_placeWord_bus {w : BitVec 41} {i : Instr} (h : decodeBus w = .ok i) (s : State) :
    step (placeWord (.bus w) s) = exec i { s with sinkReady := true } :=
  step_ready_of_fetch (s := placeWord (.bus w) s) rfl rfl (fetch_transactionOf h)

theorem step_placeWord_cmd (w : Word) (s : State) :
    step (placeWord (.cmd w) s) = exec (.wr 0x00 w) { s with sinkReady := true } :=
  step_ready_of_fetch (s := placeWord (.cmd w) s) rfl rfl (fetch_eq_instr rfl rfl)

theorem step_placeWord_kind (k : BitVec 3) (s : State) :
    step (placeWord (.kind k) s) = exec (.wr 0x00 2) { s with sinkReady := true, actKind := k, nextDue := 0 } :=
  step_ready_of_fetch (s := placeWord (.kind k) s) rfl rfl (fetch_eq_instr rfl rfl)

/-- Settles O14: each format's word is placed at the head, and the step fetches it. -/
theorem placedWordRunsNext : Obligations.PlacedWordRunsNext := by
  refine ⟨fun s h => step_of_pending_nil h, fun s w => ⟨fun i h => ?_, fun i h => ?_, fun i h => ?_⟩⟩
  all_goals obtain ⟨e, he, hd⟩ := decodeTableWord_some h; rw [withFetchWord_of_encoded he]
  · obtain rfl := encodedOfBits_bus he
    exact step_placeWord_bus hd s
  · obtain rfl := encodedOfBits_cmd he
    exact step_placeWord_cmd _ s
  · obtain rfl := encodedOfBits_kind he
    exact step_placeWord_kind _ s

end Sys2Proof.Machine

/-! How many draws an advance of LAVA makes (70_reset R294; 90_conflicts C9). -/

namespace Sys2Proof.Machine

/-! ## Requests made by each part -/

theorem DrawsInOrder.asked_length_le {p p' : RandomPort} (h : DrawsInOrder p p') : p.asked.length ≤ p'.asked.length := by
  obtain ⟨ds, rfl, -⟩ := h
  simp

@[simp] theorem ask_asked_length (q : DrawRequest) (p : RandomPort) : (ask q p).2.asked.length = p.asked.length + 1 :=
  List.length_append

/-- Only a sentinel is drawn, by three requests (40_color_math R124). -/
theorem expand_asked_length_le (c : Color) (p : RandomPort) : (expand c p).2.asked.length ≤ p.asked.length + 3 := by
  rcases expand_cases c p with ⟨-, -, he⟩ | ⟨-, r, g, b, -, -, -, he⟩ | ⟨-, r, g, b, -, -, -, he⟩ <;> simp [he]

theorem initialBlobs_asked_length {m : Nat} (hm : 1 ≤ m) (n : Nat) (p : RandomPort) :
    (initialBlobs m n p).2.asked.length = p.asked.length + n := by
  obtain ⟨cds, hlen, -, he⟩ := initialBlobs_spec hm n p
  simp [he, hlen]

/-- Position, radius and duration, then at most three for the colour (41_patterns R172). -/
theorem spawn_asked_length_le (params : Params) (a : Color) (r : RandomPort) :
    (spawn params a r).2.asked.length ≤ r.asked.length + 6 := by
  obtain ⟨pos, rad, dur, -, -, -, -, he⟩ := spawn_spec params a r
  rw [he]
  exact (expand_asked_length_le a _).trans_eq (by simp)

theorem despawn_asked_length (params : Params) (spot : Spot) (r : RandomPort) :
    (despawn params spot r).2.asked.length = r.asked.length + 1 :=
  ask_asked_length _ r

theorem blobStep_asked_length_le (params : Params) (a : Color) (b : Blob) (r : RandomPort) :
    (blobStep params a b r).2.asked.length ≤ r.asked.length + 6 := by
  rcases blobStep_cases params a b r with ⟨-, he⟩ | ⟨-, spot, -, he⟩ | ⟨-, -, he⟩ <;> rw [he]
  · exact Nat.le_add_right _ _
  · have := despawn_asked_length params spot r
    omega
  · exact spawn_asked_length_le params a r

theorem stepBlobs_asked_length_le (params : Params) (a : Color) (bs : List Blob) (r : RandomPort) :
    (stepBlobs params a bs r).2.asked.length ≤ r.asked.length + 6 * bs.length := by
  induction bs generalizing r with
  | nil => exact Nat.le_refl _
  | cons b bs ih =>
    have hb := blobStep_asked_length_le params a b r
    have hrest := ih (blobStep params a b r).2
    simp only [stepBlobs, List.length_cons]
    omega

/-! ## The advance -/

/-- An initial advance draws the background and one countdown for each blob; a later one finds its state (R170). -/
theorem lavaEntry_asked_length_le {s : State} {q : LavaState} {r : RandomPort} (he : lavaEntry s = some (q, r)) :
    r.asked.length ≤ s.random.asked.length + (if s.advInitial then 3 + s.params.nblobs else 0) := by
  cases hi : s.advInitial with
  | true =>
    obtain ⟨rfl, rfl⟩ := Prod.mk.inj (Option.some.inj ((lavaEntry_initial hi).symm.trans he))
    have hbg := expand_asked_length_le s.actColorB s.random
    rw [initialBlobs_asked_length s.params.lavaOffMax_pos, if_pos rfl]
    omega
  | false =>
    simp only [lavaEntry, hi, Bool.false_eq_true, if_false] at he
    split at he
    · split at he <;> cases he
      exact Nat.le_add_right _ _
    · cases he

/-- Settles O39: the draws of the entry state, and at most six for each of its NB blobs. -/
theorem lavaDrawsAreBounded : Obligations.LavaDrawsAreBounded := by
  intro s t h
  refine ⟨(execAdvLava_drawsInOrder h).asked_length_le, ?_⟩
  obtain ⟨q, r, he⟩ := execAdvLava_next h
  cases (execAdvLava_of_entry he).symm.trans h
  have hentry := lavaEntry_asked_length_le he
  have hsteps := stepBlobs_asked_length_le s.params s.actColorA q.blobs r
  rw [(lavaEntry_lengths he).2] at hsteps
  simp only [returnDelay_random, drawFrame_random, setPs_random, setRandom_random]
  split at hentry
  · next hi => rw [if_pos hi]; omega
  · next hi => rw [if_neg hi]; omega

end Sys2Proof.Machine

/-! TICK reads and writes none of the staging registers, the colour math operands and RES (70_reset R287): it commutes with
giving them any values. -/

namespace Sys2Proof.Machine

/-- Values for CFG_KIND, CFG_COLOR_A, CFG_COLOR_B, CFG_SPEED, OPA, OPB and RES (10_state R30). -/
structure Staging where
  cfgKind : BitVec 3
  cfgColorA : Color
  cfgColorB : Color
  cfgSpeed : Word
  opa : Color
  opb : Color
  res : Color

/-- `s` with other values in the staging registers, the operands and RES. -/
def withStaging (g : Staging) (s : State) : State :=
  { s with
      cfgKind := g.cfgKind, cfgColorA := g.cfgColorA, cfgColorB := g.cfgColorB, cfgSpeed := g.cfgSpeed,
      opa := g.opa, opb := g.opb, res := g.res }

section

variable (g : Staging) (s : State)

theorem flickerContinue_withStaging (p : FlickerState) :
    flickerContinue p (withStaging g s) = withStaging g (flickerContinue p s) := by
  rw [flickerContinue_flip (s := s) rfl rfl, flickerContinue_flip (s := withStaging g s) rfl rfl]
  rfl

theorem execAdvFlicker_withStaging :
    execAdvFlicker (withStaging g s) = thenUpdate (execAdvFlicker s) (withStaging g) := by
  cases hi : s.advInitial with
  | true => rw [execAdvFlicker_initial hi, execAdvFlicker_initial (s := withStaging g s) hi]; rfl
  | false =>
    cases hps : s.ps with
    | flicker p =>
      rw [execAdvFlicker_later hi hps, execAdvFlicker_later (s := withStaging g s) hi hps, flickerContinue_withStaging]
      rfl
    | bot | solid | pulse | cylon | alternate | lava =>
      have hk : patternKind s.ps ≠ some .flicker := by rw [hps]; nofun
      rw [execAdvFlicker_of_other_kind hi hk, execAdvFlicker_of_other_kind (s := withStaging g s) hi hk]
      rfl

/-- An advance starts from the same entry state, and its updates touch other fields (41_patterns R150). -/
theorem exec_kind_withStaging (k : Kind) :
    exec k.toInstr (withStaging g s) = thenUpdate (exec k.toInstr s) (withStaging g) := by
  cases k with
  | solid => rfl
  | pulse =>
    change execAdvPulse (withStaging g s) = thenUpdate (execAdvPulse s) (withStaging g)
    cases h : pulseEntry s with
    | none => rw [execAdvPulse_of_entry_none h, execAdvPulse_of_entry_none (s := withStaging g s) h]; rfl
    | some e => rw [execAdvPulse_of_entry h, execAdvPulse_of_entry (s := withStaging g s) h]; rfl
  | cylon =>
    change execAdvCylon (withStaging g s) = thenUpdate (execAdvCylon s) (withStaging g)
    cases h : cylonEntry s with
    | none => rw [execAdvCylon_of_entry_none h, execAdvCylon_of_entry_none (s := withStaging g s) h]; rfl
    | some e => rw [execAdvCylon_of_entry h, execAdvCylon_of_entry (s := withStaging g s) h]; rfl
  | alternate =>
    change execAdvAlternate (withStaging g s) = thenUpdate (execAdvAlternate s) (withStaging g)
    cases h : alternateEntry s with
    | none => rw [execAdvAlternate_of_entry_none h, execAdvAlternate_of_entry_none (s := withStaging g s) h]; rfl
    | some e => rw [execAdvAlternate_of_entry h, execAdvAlternate_of_entry (s := withStaging g s) h]; rfl
  | flicker => exact execAdvFlicker_withStaging g s
  | lava =>
    change execAdvLava (withStaging g s) = thenUpdate (execAdvLava s) (withStaging g)
    cases h : lavaEntry s with
    | none => rw [execAdvLava_of_entry_none h, execAdvLava_of_entry_none (s := withStaging g s) h]; rfl
    | some e => rw [execAdvLava_of_entry h, execAdvLava_of_entry (s := withStaging g s) h]; rfl

theorem advance_withStaging : advance (withStaging g s) = thenUpdate (advance s) (withStaging g) := by
  by_cases hle : s.actKind.toNat ≤ 5
  · obtain ⟨k, hk⟩ := decodeKind_of_le hle
    rw [advance_eq hk, advance_eq (s := withStaging g s) hk, exec_kind_withStaging]
  · rw [advance_unreachable (Nat.lt_of_not_le hle), advance_unreachable (s := withStaging g s) (Nat.lt_of_not_le hle)]
    rfl

theorem execTick_withStaging : execTick (withStaging g s) = thenUpdate (execTick s) (withStaging g) := by
  cases h : isDue s with
  | false => rw [execTick_notDue h, execTick_notDue (s := withStaging g s) h]; rfl
  | true =>
    have hb : beforeAdvance (withStaging g s) = withStaging g (beforeAdvance s) := rfl
    rw [execTick_due h, execTick_due (s := withStaging g s) h, hb, advance_withStaging]
    cases advance (beforeAdvance s) <;> rfl

end

/-- Settles O55: TICK commutes with the statement's `staged`, so it completes and faults alike. -/
theorem tickIgnoresStaging : Obligations.TickIgnoresStaging := by
  intro s k a b x y z v staged
  have h : execTick (staged s) = thenUpdate (execTick s) staged := execTick_withStaging ⟨k, a, b, v, x, y, z⟩ s
  exact ⟨fun t ht => h.trans (congrArg (thenUpdate · staged) ht), fun f hf => h.trans (congrArg (thenUpdate · staged) hf)⟩

end Sys2Proof.Machine

/-! The state a reset leaves: the value of every register, the invariant, and the TICK right after it (70_reset R280 to
R282). -/

namespace Sys2Proof.Machine

/-! ## The registers -/

theorem readHostReg_resetWith (p : Params) (r : HostReg) :
    readHostReg r (State.resetWith p) =
      if r = .pixels then BitVec.ofNat 32 p.pixels else if r = .nblobs then BitVec.ofNat 32 p.nblobs else 0 := by
  cases r <;> rfl

/-- What the reset input leaves of the old state is seen in no register but the two constants. -/
theorem readHostReg_powerOn (s : State) (r : HostReg) :
    readHostReg r (powerOn s) = readHostReg r (State.resetWith s.params) := by
  cases r <;> rfl

theorem step_of_reset {s : State} {rest : List Input} (hp : s.pending = .reset :: rest) :
    step s = .next (powerOn { s with pending := rest }) := by
  unfold step
  rw [hp]

/-- Settles O13: the step is the reset input's. -/
theorem resetInputClearsBlock : Obligations.ResetInputClearsBlock := fun s rest hp =>
  ⟨powerOn { s with pending := rest }, step_of_reset hp, rfl, rfl, rfl, rfl, rfl, rfl, rfl,
    fun r => (readHostReg_powerOn _ r).trans (readHostReg_resetWith _ r)⟩

/-! ## The invariant -/

/-- The invariant after reset, whatever the device's parameters. -/
theorem inv_resetWith (p : Params) : Inv (State.resetWith p) where
  errLegal := (by decide : (errOf 0).toNat ≤ 4)
  initRan := (by decide : initOf 0 = true → ranOf 0 = true)
  kindLegal := Nat.zero_le 5
  colorALegal := (by decide : isValid 0 = true)
  colorBLegal := (by decide : isValid 0 = true)
  tagLegal := fun hne => absurd rfl hne
  dueWritten := fun hne => absurd rfl hne
  patternFields := rfl
  framesWhole := rfl
  drawsLegal := rfl

/-- Settles O49, the parameters being the open ones. -/
theorem resetSatisfiesInvariant : Obligations.ResetSatisfiesInvariant := inv_resetWith Config.device

/-! ## The first TICK -/

theorem execAdvSolid_plain {s : State} (h : s.actColorA ≠ randomColor) (h' : s.actColorA ≠ randomPrimaryColor) :
    execAdvSolid s = .next (returnDelay s.actSpeed
      (drawSolid s.actColorA (setPs (if s.advInitial then .solid else s.ps) s))) := by
  unfold execAdvSolid
  rw [expand_plain _ h h']
  rfl

/-- The active kind after reset is SOLID, its colour black and its speed 0 (R281), and NEXT_DUE 0 makes the TICK due. -/
theorem execTick_resetWith (p : Params) :
    ∃ t, execTick (State.resetWith p) = .next t ∧ t.lastDelay = 0 ∧ t.out = oneFrame (List.replicate p.pixels black) := by
  have hadv := execAdvSolid_plain (s := beforeAdvance (State.resetWith p)) (by decide : (0 : Color) ≠ randomColor)
    (by decide : (0 : Color) ≠ randomPrimaryColor)
  exact ⟨_, execTick_of_exec_next (k := .solid) (isDue_initial rfl) rfl hadv, rfl, rfl⟩

/-- Settles O52, for the device of open parameters. -/
theorem resetLeavesZeroes : Obligations.ResetLeavesZeroes :=
  ⟨readHostReg_resetWith Config.device, rfl, execTick_resetWith Config.device⟩

end Sys2Proof.Machine
